-- ==== Sys2Proof/Word.lean ====
section
/-! DEFINITION. The widths of the block's words (spec/00_scope.md R6): `TS_W`, `TPB_W`, `BAUD_W` and `CMD_W`, each
32 bits, and the 8-bit bytes of the byte buffer. Every quantity is unsigned (R8). -/

namespace Sys2Proof

/-- An edge event (`TS_W` = 32 bits): the word an element of `Q` and the register `LAST_EDGE` hold (R6, R21). -/
abbrev EventWord := BitVec 32

/-- A ticks-per-bit value (`TPB_W` = 32 bits): `TPB`, `SAVED_TPB`, `TPB_REF`, `TPB_INIT` (R6, R32). -/
abbrev TicksPerBit := BitVec 32

/-- A baud value (`BAUD_W` = 32 bits): `RAW`, an entry of `CAND`, a result of `setAutoBaud` (R6, R23). -/
abbrev Baud := BitVec 32

/-- A command word (`CMD_W` = 32 bits): `CMD`, `FAULT_CMD` (R26, R31, R80). -/
abbrev CmdWord := BitVec 32

/-- The register `RESULT` (32 bits, R25). -/
abbrev ResultWord := BitVec 32

/-- One byte of the byte buffer `BUF` (R60). -/
abbrev Byte := BitVec 8

end Sys2Proof
end

