-- ==== Sys2Proof/Config.lean ====
section
/-! DEFINITION. What is fixed for the life of the block (spec/00_scope.md R6, R7; spec/10_state.md R35, R36), what the
agents around the block can do (R5), and the free values: the OPEN parameters, the host's programs, the content of the
operand memories where nobody wrote, and the stream of the agents' moves, which are constants with no body, so that
nothing can be proved of their values. -/

namespace Sys2Proof

/-! ## The named literals (R7, R36) and the sizes of the operand memories (R6) -/

/-- `BREAK_MIN_BITS` (R7, R36): the bit count from which a dominant interval is a break. -/
def Config.breakMinBits : Nat := 13

/-- `MAX_BAUD` (R7, R36): the fixed maximum bus speed. -/
def Config.maxBaud : Nat := 20000

/-- `SYNC_DRAIN_EDGES` (R7, R36): how many events `setAutoBaud` drains; `DRAIN_LEFT` is loaded with it (R24). -/
def Config.syncDrainEdges : BitVec 2 := 3

/-- `NO_DETECTION` (R7): the sentinel `detectRawBaud` and `setAutoBaud` answer. -/
def Config.noDetection : Baud := 0

/-- The default of `sendBreak`'s first operand (R7, R91). -/
def Config.defaultBreakBits : Nat := 13

/-- The default of `sendBreak`'s second operand (R7, R91). -/
def Config.defaultDelimiterBits : Nat := 1

/-- `CAND_WORDS` (R6, R58). -/
def Config.candWords : Nat := 65536

/-- `BUF_BYTES` (R6, R60). -/
def Config.bufBytes : Nat := 65536

/-! ## The OPEN parameters (R6, R35) -/

/-- The parameters the spec leaves OPEN, as a model takes them (R6). They are constants of a run (R35). -/
structure Params where
  /-- `INVERT`, the global invert flag (register 11). -/
  invert : Bool
  /-- `TPS`, ticks per second, a natural number (register 12). -/
  tps : Nat
  /-- `TPB_REF`, what `TPB` holds during `setAutoBaud` (register 13). -/
  tpbRef : TicksPerBit
  /-- `TPB_INIT`, the value of `TPB` after reset (R32). -/
  tpbInit : TicksPerBit
  /-- `QCAP`, the capacity of the edge queue: `none` is unbounded (R6, R57). -/
  qcap : Option Nat
  deriving DecidableEq, Repr

/-- The constraints R6 puts on the parameters: `TPS` positive with `TPS + 10000 < 2^TPB_W`, `QCAP` positive. -/
abbrev Params.Legal (p : Params) : Prop :=
  0 < p.tps ∧ p.tps + 10000 < 2 ^ 32 ∧ p.qcap ≠ some 0

/-- DESIGN CHOICE (log 1): the OPEN parameter `INVERT`; safe, nothing can be proved of its value. -/
opaque Config.invert : Bool

/-- DESIGN CHOICE (log 1): a free number from which `Config.tps` is made; safe. -/
opaque Config.tpsSeed : Nat

/-- DESIGN CHOICE (log 1): the OPEN parameter `TPB_REF`; safe. -/
opaque Config.tpbRef : TicksPerBit

/-- DESIGN CHOICE (log 1): the OPEN parameter `TPB_INIT`; safe. -/
opaque Config.tpbInit : TicksPerBit

/-- DESIGN CHOICE (log 1): a free choice from which `Config.qcap` is made; safe. -/
opaque Config.qcapSeed : Option Nat

/-- `TPS`: every positive number that meets R6's constraint is a value of it for some seed, and no other. -/
def Config.tps : Nat := 1 + Config.tpsSeed % (2 ^ 32 - 10001)

/-- `QCAP`: unbounded, or any positive number. -/
def Config.qcap : Option Nat := Config.qcapSeed.map (· + 1)

/-- The parameters of the machine `State.reset` starts (R6). -/
def Config.params : Params where
  invert := Config.invert
  tps := Config.tps
  tpbRef := Config.tpbRef
  tpbInit := Config.tpbInit
  qcap := Config.qcap

/-! ## The inputs of a run: the host's programs (R92) and the operand memories (R58, R60) -/

/-- DESIGN CHOICE (log 2): the host's program, a finite list of command words (R13, R92), which comes from outside the
machine; safe, nothing can be proved of it. -/
opaque Config.program : List CmdWord

/-- DESIGN CHOICE (log 2): the programs the host issues after each further reset; safe. -/
opaque Config.nextPrograms : List (List CmdWord)

/-- DESIGN CHOICE (log 6): the content of the words of `CAND` nobody has written, by address: any value
(spec/93_implementation_defined.md U15); safe. -/
opaque Config.candContent : Nat → Baud

/-- DESIGN CHOICE (log 6): the content of the bytes of `BUF` nobody has written, by address: any value (U15); safe. -/
opaque Config.bufContent : Nat → Byte

/-! ## The moves of the agents (R5, R195) -/

/-- What the transport supplies when it answers a delegated call (spec/60_exceptions.md R173 to R179). One record serves
the four calls; a call reads its own fields. Every field is a draw (R10): no rule constrains it beyond the bounds the
operations of Machine/Ops.lean put on its use (log 3). -/
structure Answer where
  /-- `k` of R179 (a): how many of the oldest events the transport removes, cut to the number queued. -/
  consumed : Nat
  /-- The draw R179 (b) leaves in `LAST_EDGE`. -/
  lastEdge : EventWord
  /-- What `detectRawBaud` answers (R174). -/
  raw : Baud
  /-- What `transportRead` received (R176), cut to the size asked for. -/
  bytes : List Byte
  /-- What `transportWrite` answers (R177), cut to the size given. -/
  count : Nat
  deriving DecidableEq, Repr, Inhabited

/-- What the host does to the block, each only while `PHASE = READY` (R28, R195). -/
inductive HostAction where
  /-- `Issue(w)`: present the next command word of the program (R92). -/
  | issue
  /-- Call the transport's `setTicksPerBit` (R171). -/
  | setTicksPerBit (v : TicksPerBit)
  /-- Write one word of `CAND` (R58). -/
  | writeCand (addr : BitVec 16) (v : Baud)
  /-- Write one byte of `BUF` (R60). -/
  | writeBuf (addr : BitVec 16) (v : Byte)
  deriving DecidableEq, Repr, Inhabited

/-- One step of one agent (R5). A run is an interleaving of such steps (R68). -/
inductive Move where
  /-- The host acts. -/
  | host (a : HostAction)
  /-- The block takes its next micro-step on its own. -/
  | block
  /-- The transport answers the delegated call the block waits for: one joint step (R173). -/
  | transport (a : Answer)
  /-- The producer's `Push(e)` (R55). -/
  | push (e : EventWord)
  /-- Reset (R190, R191). -/
  | reset
  deriving DecidableEq, Repr, Inhabited

/-- DESIGN CHOICE (log 2): the agents' moves when none stands in `State.moves`: the `n`-th is free. Safe: which agent
moves, and every draw it brings, is a value nothing constrains. -/
opaque Config.freeMove : Nat → Move

end Sys2Proof
end

