-- ==== Sys2Proof/Syntax.lean ====
section
/-! DEFINITION. The six operations of the block (spec/30_encoding.md R87; spec/00_scope.md R1) as syntax, their names,
and the lines of the assembler syntax (R91). Operands are the unsigned numbers of their fields (R86). -/

namespace Sys2Proof

/-- A command: one constructor per row of spec/opcode_table.json, in the table's order. -/
inductive Instr where
  /-- `sendBreak breakBits, delimiterBits` (format B, R83). -/
  | sendBreak (breakBits delimiterBits : Nat)
  /-- `checkBreak` (format N, R82). -/
  | checkBreak
  /-- `setAutoBaud base, n` (format C, R84). -/
  | setAutoBaud (base n : Nat)
  /-- `endFrame` (format N, R82). -/
  | endFrame
  /-- `read addr, size` (format M, R85). -/
  | read (addr size : Nat)
  /-- `write addr, size` (format M, R85). -/
  | write (addr size : Nat)
  deriving DecidableEq, Repr

/-- The name of an operation, as the trace's `Done(op, v)` gives it (spec/00_scope.md R12). -/
inductive Op where
  | sendBreak | checkBreak | setAutoBaud | endFrame | read | write
  deriving DecidableEq, Repr

/-- The operation a command is of. -/
def Instr.op : Instr → Op
  | .sendBreak _ _ => .sendBreak
  | .checkBreak => .checkBreak
  | .setAutoBaud _ _ => .setAutoBaud
  | .endFrame => .endFrame
  | .read _ _ => .read
  | .write _ _ => .write

/-- A line of a program (R91): a command with all its operands, or one of the two short forms of `sendBreak`. -/
inductive AsmLine where
  | command (i : Instr)
  /-- `sendBreak` with no operand. -/
  | sendBreakBare
  /-- `sendBreak breakBits` with one operand. -/
  | sendBreakOne (breakBits : Nat)
  deriving DecidableEq, Repr

end Sys2Proof
end

