-- ==== Sys2Proof/WellFormed.lean ====
section
/-! DEFINITION. Which commands the four formats can spell (spec/30_encoding.md R82 to R85): each operand fits its
field. What the rules fault at issue although it decodes (`n = 0`, a range past its space) is no matter of form. -/

namespace Sys2Proof

/-- Every operand fits its field: `breakBits` and `delimiterBits` 8 bits (R83), `n` and `size` 12 bits, `base` and
`addr` 16 bits (R84, R85). -/
def Instr.wf : Instr → Bool
  | .sendBreak breakBits delimiterBits => decide (breakBits < 2 ^ 8) && decide (delimiterBits < 2 ^ 8)
  | .checkBreak => true
  | .setAutoBaud base n => decide (base < 2 ^ 16) && decide (n < 2 ^ 12)
  | .endFrame => true
  | .read addr size => decide (addr < 2 ^ 16) && decide (size < 2 ^ 12)
  | .write addr size => decide (addr < 2 ^ 16) && decide (size < 2 ^ 12)

end Sys2Proof
end

