-- ==== Sys2Proof/Decode.lean ====
section
/-! DEFINITION. The decoder, total on every 32-bit word and refusing by name (spec/30_encoding.md R80 to R90), the
encoder, the rows of the opcode table (R87), the byte order of a command word a host maps onto bytes (R63), and
the short forms of the assembler (R91). -/

namespace Sys2Proof

/-- The field `w[hi:lo]` as an unsigned number (spec/00_scope.md R8). -/
def field (w : CmdWord) (hi lo : Nat) : Nat :=
  (w.extractLsb hi lo).toNat

/-- Why a word spells no operation (R88). -/
inductive DecodeError where
  /-- Opcode `0000` or `0111` to `1111`. -/
  | noSuchOpcode
  /-- A must-be-zero field of format N or B is not zero. -/
  | reservedBitsSet
  /-- Fewer than four bytes where a word is read from bytes. -/
  | truncated
  deriving DecidableEq, Repr

/-- The decoder (R81 to R88): bits `[31:28]` are the opcode in every format. -/
def decode (w : CmdWord) : Except DecodeError Instr :=
  match field w 31 28 with
  | 1 => if field w 27 16 = 0 then .ok (.sendBreak (field w 15 8) (field w 7 0)) else .error .reservedBitsSet
  | 2 => if field w 27 0 = 0 then .ok .checkBreak else .error .reservedBitsSet
  | 3 => .ok (.setAutoBaud (field w 15 0) (field w 27 16))
  | 4 => if field w 27 0 = 0 then .ok .endFrame else .error .reservedBitsSet
  | 5 => .ok (.read (field w 15 0) (field w 27 16))
  | 6 => .ok (.write (field w 15 0) (field w 27 16))
  | _ => .error .noSuchOpcode

/-- The word of a command, field by field from bit 31 down (the table of R81; opcodes of R87). An operand that does not
fit its field has no word: `Instr.wf` refuses it. -/
def encode : Instr → CmdWord
  | .sendBreak breakBits delimiterBits =>
      0x1#4 ++ 0#12 ++ BitVec.ofNat 8 breakBits ++ BitVec.ofNat 8 delimiterBits
  | .checkBreak => 0x2#4 ++ 0#28
  | .setAutoBaud base n => 0x3#4 ++ BitVec.ofNat 12 n ++ BitVec.ofNat 16 base
  | .endFrame => 0x4#4 ++ 0#28
  | .read addr size => 0x5#4 ++ BitVec.ofNat 12 size ++ BitVec.ofNat 16 addr
  | .write addr size => 0x6#4 ++ BitVec.ofNat 12 size ++ BitVec.ofNat 16 addr

/-! ## The opcode table (R87) -/

/-- A row of the opcode table: a word `w` spells it when `w and mask = pattern`. -/
structure OpcodeRow where
  op : Op
  pattern : CmdWord
  mask : CmdWord
  deriving DecidableEq, Repr

/-- The six rows of R87, in its order. -/
def opcodeTable : List OpcodeRow :=
  [ ⟨.sendBreak, 0x10000000, 0xFFFF0000⟩,
    ⟨.checkBreak, 0x20000000, 0xFFFFFFFF⟩,
    ⟨.setAutoBaud, 0x30000000, 0xF0000000⟩,
    ⟨.endFrame, 0x40000000, 0xFFFFFFFF⟩,
    ⟨.read, 0x50000000, 0xF0000000⟩,
    ⟨.write, 0x60000000, 0xF0000000⟩ ]

/-- Whether a word spells a row (R87). -/
def OpcodeRow.spelledBy (r : OpcodeRow) (w : CmdWord) : Bool :=
  w &&& r.mask == r.pattern

/-! ## Command words as bytes (R63) -/

/-- A command word as four bytes, the least significant at the lowest address (R63). -/
def bytesOfWord (w : CmdWord) : List Byte :=
  [w.extractLsb' 0 8, w.extractLsb' 8 8, w.extractLsb' 16 8, w.extractLsb' 24 8]

/-- Read one command from bytes laid out as R63 says; the bytes after it are returned. -/
def decodeBytes : List Byte → Except DecodeError (Instr × List Byte)
  | b0 :: b1 :: b2 :: b3 :: rest =>
      match decode (b3 ++ b2 ++ b1 ++ b0) with
      | .ok i => .ok (i, rest)
      | .error e => .error e
  | _ => .error .truncated

/-- The 32-bit word of a row's bits as spec/opcode_table.json numbers them: bits at and above `nbits` are zero. -/
def wordOfTableBits (nbits w : Nat) : CmdWord :=
  BitVec.ofNat 32 (w % 2 ^ nbits)

/-- What the decoder reads from a word given as the table numbers its bits, laid out as bytes (R63). -/
def decodeTableWord (nbits w : Nat) : Option Instr :=
  match decodeBytes (bytesOfWord (wordOfTableBits nbits w)) with
  | .ok (i, _) => some i
  | .error _ => none

/-! ## The assembler's lines (R91) -/

/-- Why a line has no word (R91): an operand that does not fit its field is an error, not a truncation. -/
inductive AsmError where
  | operandDoesNotFit
  | unknownLine
  deriving DecidableEq, Repr

/-- The command a line stands for: the short forms carry the defaults 13 and 1 (R91). -/
def AsmLine.expand : AsmLine → Instr
  | .command i => i
  | .sendBreakBare => .sendBreak Config.defaultBreakBits Config.defaultDelimiterBits
  | .sendBreakOne breakBits => .sendBreak breakBits Config.defaultDelimiterBits

/-- The word of a line (R91). -/
def assemble (l : AsmLine) : Except AsmError CmdWord :=
  if l.expand.wf then .ok (encode l.expand) else .error .operandDoesNotFit

end Sys2Proof
end

