-- ==== Sys2Proof/Machine/State.lean ====
section
/-! DEFINITION. The state of the machine as plain data (spec/10_state.md): the block's registers, the transport-owned
registers the block touches, the parameters that stand in the register table, the two operand memories, the producer's
fault, the trace of spec/00_scope.md R12, and the model's own fields for what the agents do next. -/

namespace Sys2Proof.Machine

/-- `FRAME_STATE` (R20). -/
inductive FrameState where
  | idle
  | inFrame
  deriving DecidableEq, Repr

/-- `PHASE` (R27). The code 6 is never held and has no constructor. -/
inductive Phase where
  | ready
  | cbScan
  | abDetect
  | abDrain
  | abSelect
  | xportWait
  | halted
  deriving DecidableEq, Repr

/-- The causes a fatal fault can have (spec/60_exceptions.md R160). -/
inductive Cause where
  | illegalCommand
  | stateNotIdle
  | stateNotInFrame
  | emptyCandidateSet
  | boundsFault
  | zeroTicksPerBit
  | zeroBaudCandidate
  deriving DecidableEq, Repr

/-- A delegated transport call with its arguments and what it answered, as the trace records it (R12, R173). -/
inductive Call where
  | emitPeriod (lowTicks highTicks : Nat) (invertFlag : Bool)
  | detectRawBaud (raw : Baud)
  | transportRead (addr size : Nat) (bytes : List Byte)
  | transportWrite (bytes : List Byte) (size count : Nat)
  deriving DecidableEq, Repr

/-- An event of the observable trace (R12). -/
inductive Event where
  | issue (cmd : CmdWord)
  | done (op : Op) (v : Option ResultWord)
  | fault (code : BitVec 4) (cmd : CmdWord)
  | push (e : EventWord)
  | pop (e : EventWord)
  | call (c : Call)
  | setTpb (v : TicksPerBit)
  | reset
  deriving DecidableEq, Repr

/-- A memory space as (address, value) pairs in one canonical form: addresses strictly rising. The list holds what was
written: an address that is not listed was written by nobody (spec/10_state.md R40), and what the block finds there is
free (`Memory.content`; log 6). -/
abbrev Memory (α : Type) := List (Nat × α)

/-- The state. Fields in the order of the table of spec/10_state.md section 1, the model's own last. -/
structure State where
  /-- `FRAME_STATE` (register 0, R20). -/
  frameState : FrameState
  /-- `LAST_EDGE` (register 1, R21). -/
  lastEdge : EventWord
  /-- `SAVED_TPB` (register 2, R22). -/
  savedTpb : TicksPerBit
  /-- `RAW` (register 3, R23). -/
  raw : Baud
  /-- `DRAIN_LEFT` (register 4, R24). -/
  drainLeft : BitVec 2
  /-- `RESULT` (register 5, R25). -/
  result : ResultWord
  /-- `CMD` (register 6, R26). -/
  cmd : CmdWord
  /-- `PHASE` (register 7, R27). -/
  phase : Phase
  /-- `CAUSE` (register 8, R30). -/
  cause : BitVec 4
  /-- `FAULT_CMD` (register 9, R31). -/
  faultCmd : CmdWord
  /-- `TPB` (register 10, R32), owned by the transport. -/
  tpb : TicksPerBit
  /-- `INVERT`, `TPS`, `TPB_REF` (registers 11 to 13, R35) and the parameters `TPB_INIT` and `QCAP` (R6): constants of a
  run, which no step changes. -/
  par : Params
  /-- `Q`, oldest first (R34, R50). -/
  q : List EventWord
  /-- `CAND` (R58): words, word-addressed. -/
  cand : Memory Baud
  /-- `BUF` (R60): bytes, byte-addressed. -/
  buf : Memory Byte
  /-- `QueueOverflow` (R57): the producer's fault, kept for the rest of the run. -/
  queueOverflow : Bool
  /-- The observable trace so far, oldest event first (R12). -/
  trace : List Event
  /-- The command words of the host's program that are yet to be issued, in order (R13, R92). -/
  program : List CmdWord
  /-- The programs the host issues after further resets, one for each (R92; log 2). -/
  nextPrograms : List (List CmdWord)
  /-- The model's own (log 18): the run was over when the latest reset came, and the host had no list left to start. -/
  runEnded : Bool
  /-- The model's own (log 3): what the transport answers in the step under way; `none` when it does not answer. -/
  answer : Option Answer
  /-- The model's own (log 2): the next moves of the agents, in order. -/
  moves : List Move
  /-- The model's own (log 2): how many moves have been taken from the free stream. -/
  drawn : Nat
  deriving DecidableEq, Repr

/-- Why a step stops the machine. A fatal fault of the block is none of these: it is a next state (R166). -/
inductive Fault where
  /-- Raised by the select step of `setAutoBaud` where its list passes the end of `CAND` (an address that does not exist,
  R66). The issue step has excluded it (R59), so no run reaches it. Safe. -/
  | outsideCand
  /-- Raised by the transport step of `read` or `write` where its range passes the end of `BUF` (an address that does not
  exist, R66). The issue step has excluded it (R62), so no run reaches it. Safe. -/
  | outsideBuf
  deriving DecidableEq, Repr

/-- Why a step has no meaning. -/
inductive Refusal where
  /-- An arm of `exec` that has no meaning yet. Safe. No arm raises it. -/
  | notModelled (mnemonic : String)
  deriving DecidableEq, Repr

/-- What a step answers. -/
abbrev StepResult := Host.Outcome State Fault Refusal

/-- `LAST_EDGE` after reset (R21): tick 0 with a parity that makes the first interval recessive,
`zext_TS_W(1 xor INVERT)`. -/
def lastEdgeAtReset (p : Params) : EventWord :=
  (BitVec.ofBool (true ^^ p.invert)).zeroExtend 32

/-- The machine right after reset under the parameters `p` (R40, R190), with operand memories nobody has written (log 6),
the host's programs as they come from outside (log 2) and the model's own fields empty (log 12). -/
def State.resetWith (p : Params) : State where
  frameState := .idle
  lastEdge := lastEdgeAtReset p
  savedTpb := 0
  raw := 0
  drainLeft := 0
  result := 0
  cmd := 0
  phase := .ready
  cause := 0
  faultCmd := 0
  tpb := p.tpbInit
  par := p
  q := []
  cand := []
  buf := []
  queueOverflow := false
  trace := [.reset]
  program := Config.program
  nextPrograms := Config.nextPrograms
  runEnded := false
  answer := none
  moves := []
  drawn := 0

/-- The machine right after reset (R190), under the OPEN parameters (R6). -/
def State.reset : State :=
  State.resetWith Config.params

end Sys2Proof.Machine
end

