-- ==== Sys2Proof/Machine/Ops.lean ====
section
/-! DEFINITION. The named operations over the registers, the edge queue, the operand memories, the fault record and the
trace: the pseudocode primitives of spec/00_scope.md R9, `complete` (R29), `raise Fault(c)` (R166), the transport's
calls (spec/60_exceptions.md R170 to R179), the producer's push (spec/20_memory.md R55, R57), the end
of a run (spec/00_scope.md R13) and reset (R190). -/

namespace Sys2Proof.Machine

/-! ## Code values (R20, R27, R160) -/

/-- The code of `FRAME_STATE` (R20). -/
def FrameState.code : FrameState → BitVec 1
  | .idle => 0
  | .inFrame => 1

/-- The code of `PHASE` (R27). -/
def Phase.code : Phase → BitVec 3
  | .ready => 0
  | .cbScan => 1
  | .abDetect => 2
  | .abDrain => 3
  | .abSelect => 4
  | .xportWait => 5
  | .halted => 7

/-- The code `raise Fault(c)` writes to `CAUSE` (R160). -/
def Cause.code : Cause → BitVec 4
  | .illegalCommand => 1
  | .stateNotIdle => 2
  | .stateNotInFrame => 3
  | .emptyCandidateSet => 4
  | .boundsFault => 5
  | .zeroTicksPerBit => 6
  | .zeroBaudCandidate => 7

/-! ## The operand memories (R58 to R62) -/

/-- The value written at an address: `none` where the host and the block never wrote (R40). -/
def Memory.read {α : Type} : Memory α → Nat → Option α
  | [], _ => none
  | (b, w) :: m, a => if a = b then some w else Memory.read m a

/-- Write one unit, keeping the addresses strictly rising. -/
def Memory.write {α : Type} : Memory α → Nat → α → Memory α
  | [], a, v => [(a, v)]
  | (b, w) :: m, a, v =>
      if a < b then (a, v) :: (b, w) :: m
      else if a = b then (a, v) :: m
      else (b, w) :: Memory.write m a v

/-- What the space holds at an address: what was written there, else the free content it came with
(spec/93_implementation_defined.md U15; log 6). -/
def Memory.content {α : Type} (free : Nat → α) (m : Memory α) (a : Nat) : α :=
  (m.read a).getD (free a)

/-- `MemRead(space, addr, n)` (R9): the `n` consecutive units from `addr`, ascending. Addresses are natural numbers and do
not wrap (R59, R62). -/
def Memory.readRange {α : Type} (free : Nat → α) (m : Memory α) : Nat → Nat → List α
  | _, 0 => []
  | addr, n + 1 => m.content free addr :: Memory.readRange free m (addr + 1) n

/-- `MemRead(CAND, base, n)` (R59). -/
def State.readCand (s : State) (base n : Nat) : List Baud :=
  s.cand.readRange Config.candContent base n

/-- `MemRead(BUF, addr, size)` (R61). -/
def State.readBuf (s : State) (addr size : Nat) : List Byte :=
  s.buf.readRange Config.bufContent addr size

/-- `MemWrite(space, addr, n, v)` (R9): the units to consecutive addresses from `addr`, in order. -/
def Memory.writeRange {α : Type} : Memory α → Nat → List α → Memory α
  | m, _, [] => m
  | m, addr, v :: vs => (m.write addr v).writeRange (addr + 1) vs

/-- The canonical form: addresses strictly rising, each below the size of the space. -/
def Memory.wf {α : Type} (size : Nat) : Memory α → Bool
  | [] => true
  | (a, _) :: m => decide (a < size) && m.all (fun c => decide (a < c.1)) && Memory.wf size m

/-! ## The trace (R12) -/

/-- Record one event, as the youngest. -/
def State.record (e : Event) (s : State) : State :=
  { s with trace := s.trace ++ [e] }

/-! ## The sequencer, completion and the fault entry (R27, R29, R166) -/

/-- `PHASE <- p`. -/
def State.goPhase (p : Phase) (s : State) : State :=
  { s with phase := p }

/-- `FRAME_STATE <- f`. -/
def State.setFrame (f : FrameState) (s : State) : State :=
  { s with frameState := f }

/-- `complete()` (R29): the command ends; `RESULT` is unchanged. -/
def State.complete (op : Op) (s : State) : State :=
  { s with phase := .ready, trace := s.trace ++ [.done op none] }

/-- `complete(v)` (R29): the command ends with the return value `v`. -/
def State.completeWith (op : Op) (v : ResultWord) (s : State) : State :=
  { s with result := v, phase := .ready, trace := s.trace ++ [.done op (some v)] }

/-- `raise Fault(c)` (R166): taking a fatal fault. It is a next state: the fault record is written, the block is halted,
and nothing else changes. There is no return from it but reset (R168). -/
def State.raise (c : Cause) (s : State) : State :=
  { s with
    cause := c.code
    faultCmd := s.cmd
    phase := .halted
    trace := s.trace ++ [.fault c.code s.cmd] }

/-! ## The edge queue (R50 to R57) -/

/-- `edgeAvailable()`, written `QAvail()` (R51, R52): no side effect. -/
def State.edgeAvailable (s : State) : Bool :=
  !s.q.isEmpty

/-- `popEdge()`, written `QPop()`, as the block does it (R53): the oldest event is removed and, as every pop of the block
does, loads `LAST_EDGE` (R21). `none` exactly when `Q` is empty. -/
def State.popEdge (s : State) : Option (EventWord × State) :=
  match s.q with
  | [] => none
  | e :: rest => some (e, { s with q := rest, lastEdge := e, trace := s.trace ++ [.pop e] })

/-- Whether a push would find the queue full (R57). -/
def State.queueFull (s : State) : Bool :=
  match s.par.qcap with
  | none => false
  | some c => decide (c ≤ s.q.length)

/-- The producer's `Push(e)` (R55, R57). A push onto a full queue is the producer's fault `QueueOverflow`: it is kept, it
halts the producer and not the block, and no queued event is dropped or overwritten (log 7). -/
def State.pushEdge (e : EventWord) (s : State) : State :=
  if s.queueOverflow then s
  else if s.queueFull then { s with queueOverflow := true }
  else { s with q := s.q ++ [e], trace := s.trace ++ [.push e] }

/-! ## The transport's calls (R170 to R179) -/

/-- `getTicksPerBit()` (R171). -/
def State.getTicksPerBit (s : State) : TicksPerBit :=
  s.tpb

/-- `setTicksPerBit(v)` (R171): takes effect at once. -/
def State.setTicksPerBit (v : TicksPerBit) (s : State) : State :=
  { s with tpb := v, trace := s.trace ++ [.setTpb v] }

/-- `microsecondsToTicks(u)` (R172): no rule of the block calls it. -/
def microsecondsToTicks (p : Params) (u : Nat) : Nat :=
  u * p.tps / 1000000

/-- The reverse conversion of R172, for `k` ticks. -/
def ticksToMicroseconds (p : Params) (k : Nat) : Nat :=
  k * 1000000 / p.tps

/-- The bytes `transportRead` delivers (R176): at most `size` of them; the count it answers is their number. -/
def received (a : Answer) (size : Nat) : List Byte :=
  a.bytes.take size

/-- The count `transportWrite` answers (R177): at most `size`. -/
def accepted (a : Answer) (size : Nat) : Nat :=
  min a.count size

/-- A delegated call (R173): the trace records it; the transport removes the oldest `k` events, at most all of them, and
leaves a draw in `LAST_EDGE` (R179); the answer is used up. -/
def State.delegate (a : Answer) (c : Call) (s : State) : State :=
  { s with
    q := s.q.drop a.consumed
    lastEdge := a.lastEdge
    answer := none
    trace := s.trace ++ [.call c] }

/-! ## The end of a run (R13) -/

/-- Whether the last command issued since the latest reset has completed, after an event, given whether it had before: an
`Issue` leaves a command to complete, its `Done` completes it, a fault does not, and after a reset there is none. -/
def Event.updateDone (done : Bool) : Event → Bool
  | .issue _ => false
  | .done _ _ => true
  | .fault _ _ => done
  | .push _ => done
  | .pop _ => done
  | .call _ => done
  | .setTpb _ => done
  | .reset => false

/-- A command has been issued since the latest reset, and the last of them has completed: the trace holds its `Done`
(R13; DEDUCED, log 18). -/
def State.lastCommandDone (s : State) : Bool :=
  s.trace.foldl Event.updateDone false

/-- The run is over (R13; DEDUCED, log 18): `PHASE = READY`, the program has no word left, and its last command has
completed, since the latest reset or (`runEnded`) before it. A halted or holding state never is the end, nor one after a
reset that cut the program short. -/
def State.runOver (s : State) : Bool :=
  decide (s.phase = .ready) && s.program.isEmpty && (s.lastCommandDone || s.runEnded)

/-! ## Reset (R190, R191) and the host's reading (R195) -/

/-- Reset applied in any state: every register of R190 at its reset value, `Q` empty, `TPB` at `TPB_INIT`; `CAND` and
`BUF` are not changed; the trace records `Reset`. The host's program is abandoned with the command in progress (R191), and
the host starts the next of its lists (R92; log 2); with none left, a run that was over stays over (log 18). The parameters, the producer's fault (R57: kept for the rest of the
run) and the agents' further moves stay (log 10). -/
def State.applyReset (s : State) : State :=
  { s with
    frameState := .idle
    lastEdge := lastEdgeAtReset s.par
    savedTpb := 0
    raw := 0
    drainLeft := 0
    result := 0
    cmd := 0
    phase := .ready
    cause := 0
    faultCmd := 0
    tpb := s.par.tpbInit
    q := []
    program := s.nextPrograms.headD []
    nextPrograms := s.nextPrograms.tail
    runEnded := s.nextPrograms.isEmpty && s.runOver
    answer := none
    trace := s.trace ++ [.reset] }

/-- What the host can read at any time (R195). -/
structure Readout where
  frameState : BitVec 1
  phase : BitVec 3
  cause : BitVec 4
  faultCmd : CmdWord
  result : ResultWord
  deriving DecidableEq, Repr

/-- The host's state readout: `FRAME_STATE`, `PHASE`, `CAUSE`, `FAULT_CMD`, `RESULT` (R195). It changes nothing. -/
def State.readout (s : State) : Readout where
  frameState := s.frameState.code
  phase := s.phase.code
  cause := s.cause
  faultCmd := s.faultCmd
  result := s.result

/-- The host's read of one byte of `BUF`: it has this move only in `READY` (R60, R195). It changes nothing. -/
def State.hostReadBuf (s : State) (addr : BitVec 16) : Option Byte :=
  if s.phase = .ready then some (s.buf.content Config.bufContent addr.toNat) else none

end Sys2Proof.Machine
end

