-- ==== Sys2Proof/Machine/Operands.lean ====
section
/-! DEFINITION. The arithmetic on the operands and draws: the interval between events and its bit count
(spec/41_break_detector.md R120, R122), the ticks of a break (spec/40_frame_lifecycle.md R101), the operand ranges in
`CAND` and `BUF` (spec/20_memory.md R59, R62), the nearest candidate and the committed ticks-per-bit
(spec/42_autobaud.md R148 to R151). All of it is exact over the naturals but for the interval (R14). -/

namespace Sys2Proof.Machine

/-- `Bits(t, tpb)` (R120), for `tpb > 0`: the floor of the quotient, one more when the remainder exceeds half a bit
period; an exact half stays down. -/
def bitCount (t tpb : Nat) : Nat :=
  t / tpb + (if 2 * (t % tpb) > tpb then 1 else 0)

/-- The interval that ends at the event `e` and began at `p` (R122): the difference of the whole words modulo
`2^TS_W`, read as an unsigned number. -/
def interval (e p : EventWord) : Nat :=
  (e - p).toNat

/-- The ticks of `count` bit-times at the ticks-per-bit `tpb` (R101): the exact product. -/
def bitTimes (count : Nat) (tpb : TicksPerBit) : Nat :=
  count * tpb.toNat

/-- The range check of `setAutoBaud` (R59, R163), over the naturals. -/
def candRangeOk (base n : Nat) : Bool :=
  decide (base + n ≤ Config.candWords)

/-- The range check of `read` and `write` (R62, R163), over the naturals. -/
def bufRangeOk (addr size : Nat) : Bool :=
  decide (addr + size ≤ Config.bufBytes)

/-- `|a - b|`, the absolute difference of two baud values as an exact natural (R8, R148). -/
def baudDistance (a b : Baud) : Nat :=
  max a.toNat b.toNat - min a.toNat b.toNat

/-- The scan of the further candidates in ascending index order, with the candidate selected so far and its distance:
a strictly smaller distance replaces it, so the first minimum is kept (R142, R149). -/
def scanCandidates (raw sel : Baud) (best : Nat) : List Baud → Baud
  | [] => sel
  | c :: cs =>
      if baudDistance c raw < best then scanCandidates raw c (baudDistance c raw) cs
      else scanCandidates raw sel best cs

/-- The nearest candidate (R148): the first candidate starts selected. `none` only for an empty list, which the issue
step has faulted (R149). -/
def nearestCandidate (raw : Baud) : List Baud → Option Baud
  | [] => none
  | c :: cs => some (scanCandidates raw c (baudDistance c raw) cs)

/-- `floor((TPS + floor(sel / 2)) / sel)` (R151), for `sel > 0`. -/
def roundedTicks (tps sel : Nat) : Nat :=
  (tps + sel / 2) / sel

/-- The ticks-per-bit the commit of `setAutoBaud` stores (R151). The constraint on `TPS` makes it fit its width. -/
def committedTicks (p : Params) (sel : Baud) : TicksPerBit :=
  BitVec.ofNat 32 (roundedTicks p.tps sel.toNat)

end Sys2Proof.Machine
end

