-- ==== Sys2Proof/Machine/Flags.lean ====
section
/-! DEFINITION. The block's condition computations: the line level implied for an interval (spec/10_state.md R33), the
break test (spec/41_break_detector.md R127), and the frame state each operation requires (spec/40_frame_lifecycle.md
R108), which is the block's only condition flag (R20). -/

namespace Sys2Proof.Machine

/-- The parity of an event: bit 0 of its word (R33). -/
def parity (e : EventWord) : Bool :=
  e.getLsbD 0

/-- The level of the interval that began at the event `p`: `parity(p) xor INVERT`; true is high and recessive, false is
low and dominant (R33). -/
def lineLevel (p : EventWord) (invert : Bool) : Bool :=
  parity p ^^ invert

/-- The break test (R127): the level is dominant and the bit count is at least `BREAK_MIN_BITS`; nothing else. -/
def isBreak (level : Bool) (bits : Nat) : Bool :=
  !level && decide (Config.breakMinBits ≤ bits)

/-- The frame state an operation requires, where it requires one (R20, R108). -/
def requiredFrame : Op → Option FrameState
  | .sendBreak => some .idle
  | .checkBreak => some .idle
  | .setAutoBaud => some .inFrame
  | .endFrame => none
  | .read => some .inFrame
  | .write => some .inFrame

/-- The cause of issuing an operation outside the frame state it requires (R160, R162). -/
def frameFault : FrameState → Cause
  | .idle => .stateNotIdle
  | .inFrame => .stateNotInFrame

/-- The checks at issue after the word has been found legal, in their order (R165): the frame state, for `setAutoBaud`
the empty list, then the operand range. `none` when no check fails. -/
def issueFault (i : Instr) (f : FrameState) : Option Cause :=
  match requiredFrame i.op with
  | some want =>
      if f ≠ want then some (frameFault want)
      else match i with
        | .setAutoBaud base n =>
            if n = 0 then some .emptyCandidateSet
            else if candRangeOk base n then none else some .boundsFault
        | .read addr size => if bufRangeOk addr size then none else some .boundsFault
        | .write addr size => if bufRangeOk addr size then none else some .boundsFault
        | .sendBreak _ _ => none
        | .checkBreak => none
        | .endFrame => none
  | none => none

end Sys2Proof.Machine
end

