-- ==== Sys2Proof/Machine/Autobaud.lean ====
section
/-! DEFINITION. The autobaud estimator (spec/42_autobaud.md): `setAutoBaud`, in its issue, detect, drain and select
micro-steps (R140, R142). -/

namespace Sys2Proof.Machine

/-- Steps 1 and 2 (R142, issue): save the ticks-per-bit, override it with the reference value. -/
def State.startAutobaud (s : State) : State :=
  ({ s with savedTpb := s.getTicksPerBit }.setTicksPerBit s.par.tpbRef).goPhase .abDetect

/-- Step 3 (R142, detect): the raw detection primitive answers; 0 restores the saved ticks-per-bit and ends the
command with 0, with nothing drained (R144). -/
def State.detectStep (a : Answer) (s : State) : State :=
  let s' := { s.delegate a (.detectRawBaud a.raw) with raw := a.raw }
  if a.raw = Config.noDetection then
    (s'.setTicksPerBit s'.savedTpb).completeWith .setAutoBaud Config.noDetection
  else { s' with drainLeft := Config.syncDrainEdges }.goPhase .abDrain

/-- Step 4 (R142, drain): one event is popped and not examined (R146). `none` when `Q` is empty: the step is not
enabled. -/
def State.drainStep (s : State) : Option State :=
  match s.popEdge with
  | none => none
  | some (_, s') =>
      let left := s'.drainLeft - 1
      some ({ s' with drainLeft := left }.goPhase (if left = 0 then .abSelect else .abDrain))

/-- Steps 6 and 7 (R142, select) for the selected candidate: above the ceiling restores and ends with 0 (R150), 0 faults
with `TPB` as it stands (R152), anything else is committed (R151). -/
def State.settle (sel : Baud) (s : State) : State :=
  if Config.maxBaud < sel.toNat then
    (s.setTicksPerBit s.savedTpb).completeWith .setAutoBaud Config.noDetection
  else if sel = 0 then s.raise .zeroBaudCandidate
  else (s.setTicksPerBit (committedTicks s.par sel)).completeWith .setAutoBaud sel

/-- `setAutoBaud base, n` (R141, R142). A word of `CAND` nobody wrote is the free content of its address (log 6). -/
def execSetAutoBaud (base n : Nat) (s : State) : StepResult :=
  match s.phase with
  | .ready =>
      match issueFault (.setAutoBaud base n) s.frameState with
      | some c => .next (s.raise c)
      | none => .next s.startAutobaud
  | .abDetect =>
      match s.answer with
      | none => .next s
      | some a => .next (s.detectStep a)
  | .abDrain =>
      match s.drainStep with
      | none => .next s
      | some s' => .next s'
  | .abSelect =>
      if candRangeOk base n then
        match nearestCandidate s.raw (s.readCand base n) with
        | none => .next s
        | some sel => .next (s.settle sel)
      else .fault .outsideCand
  | _ => .next s

end Sys2Proof.Machine
end

