-- ==== Sys2Proof/Machine/BreakDetector.lean ====
section
/-! DEFINITION. The break detector (spec/41_break_detector.md): `checkBreak`, one scan step per iteration of its loop. -/

namespace Sys2Proof.Machine

/-- What a scan step does after it has popped the event `e` (R125), in the state after the pop, with the event `p` that
`LAST_EDGE` held before it: the level and the interval are those between `p` and `e`. -/
def State.judgeInterval (p e : EventWord) (s : State) : State :=
  if s.getTicksPerBit = 0 then s.raise .zeroTicksPerBit
  else if isBreak (lineLevel p s.par.invert) (bitCount (interval e p) s.getTicksPerBit.toNat) then
    (s.setFrame .inFrame).completeWith .checkBreak 1
  else s.goPhase .cbScan

/-- The scan step (R125, R126): with no event available the command completes with false; it never waits. -/
def State.scanStep (s : State) : State :=
  match s.popEdge with
  | none => s.completeWith .checkBreak 0
  | some (e, s') => s'.judgeInterval s.lastEdge e

/-- `checkBreak` (R125). -/
def execCheckBreak (s : State) : StepResult :=
  match s.phase with
  | .ready =>
      match issueFault .checkBreak s.frameState with
      | some c => .next (s.raise c)
      | none => .next (s.goPhase .cbScan)
  | .cbScan => .next s.scanStep
  | _ => .next s

end Sys2Proof.Machine
end

