-- ==== Sys2Proof/Machine/Lifecycle.lean ====
section
/-! DEFINITION. The frame lifecycle operations (spec/40_frame_lifecycle.md): `sendBreak`, `endFrame`, `read`, `write`.
A meaning is the micro-step `PHASE` stands at (R27): the issue step in `READY`, the transport step in `XPORT_WAIT`. In a
phase that has no micro-step of the operation nothing is enabled, and the state is unchanged (R11; log 4). -/

namespace Sys2Proof.Machine

/-- The transport step of `sendBreak` (R101): a dominant period of `breakBits` bit-times, then a recessive one of
`delimiterBits`, at the ticks-per-bit of now. -/
def State.emitBreak (breakBits delimiterBits : Nat) (a : Answer) (s : State) : State :=
  ((s.delegate a
      (.emitPeriod (bitTimes breakBits s.getTicksPerBit) (bitTimes delimiterBits s.getTicksPerBit) s.par.invert)).setFrame
      .inFrame).complete .sendBreak

/-- `sendBreak breakBits, delimiterBits` (R101). -/
def execSendBreak (breakBits delimiterBits : Nat) (s : State) : StepResult :=
  match s.phase with
  | .ready =>
      match issueFault (.sendBreak breakBits delimiterBits) s.frameState with
      | some c => .next (s.raise c)
      | none => .next (s.goPhase .xportWait)
  | .xportWait =>
      match s.answer with
      | none => .next s
      | some a => .next (s.emitBreak breakBits delimiterBits a)
  | _ => .next s

/-- `endFrame` (R103). -/
def execEndFrame (s : State) : StepResult :=
  match s.phase with
  | .ready => .next ((s.setFrame .idle).complete .endFrame)
  | _ => .next s

/-- The transport step of `read` (R105): the received bytes go to `BUF` from `addr` on, and their count is the result.
-/
def State.receive (addr size : Nat) (a : Answer) (s : State) : State :=
  let bytes := received a size
  let s' := s.delegate a (.transportRead addr size bytes)
  { s' with buf := s'.buf.writeRange addr bytes }.completeWith .read (BitVec.ofNat 32 bytes.length)

/-- `read addr, size` (R104, R105). -/
def execRead (addr size : Nat) (s : State) : StepResult :=
  match s.phase with
  | .ready =>
      match issueFault (.read addr size) s.frameState with
      | some c => .next (s.raise c)
      | none => .next (s.goPhase .xportWait)
  | .xportWait =>
      match s.answer with
      | none => .next s
      | some a => if bufRangeOk addr size then .next (s.receive addr size a) else .fault .outsideBuf
  | _ => .next s

/-- The transport step of `write` (R106), given the bytes read from `BUF`: they are handed over, and the count accepted
is the result. -/
def State.transmit (bytes : List Byte) (size : Nat) (a : Answer) (s : State) : State :=
  (s.delegate a (.transportWrite bytes size (accepted a size))).completeWith .write
    (BitVec.ofNat 32 (accepted a size))

/-- `write addr, size` (R104, R106). A byte of `BUF` nobody wrote is handed over as the free content of its address
(log 6). -/
def execWrite (addr size : Nat) (s : State) : StepResult :=
  match s.phase with
  | .ready =>
      match issueFault (.write addr size) s.frameState with
      | some c => .next (s.raise c)
      | none => .next (s.goPhase .xportWait)
  | .xportWait =>
      match s.answer with
      | none => .next s
      | some a =>
          if bufRangeOk addr size then .next (s.transmit (s.readBuf addr size) size a) else .fault .outsideBuf
  | _ => .next s

end Sys2Proof.Machine
end

