-- ==== Sys2Proof/Machine/Dispatch.lean ====
section
/-! DEFINITION. One arm per command: the micro-step of the command at the phase the sequencer stands at. -/

namespace Sys2Proof.Machine

def exec (i : Instr) (s : State) : Host.Outcome State Fault Refusal :=
  match i with
  | .sendBreak breakBits delimiterBits => Sys2Proof.Machine.execSendBreak breakBits delimiterBits s
  | .checkBreak => Sys2Proof.Machine.execCheckBreak s
  | .setAutoBaud base n => Sys2Proof.Machine.execSetAutoBaud base n s
  | .endFrame => Sys2Proof.Machine.execEndFrame s
  | .read addr size => Sys2Proof.Machine.execRead addr size s
  | .write addr size => Sys2Proof.Machine.execWrite addr size s

end Sys2Proof.Machine
end

