-- ==== Sys2Proof/Machine/Agents.lean ====
section
/-! DEFINITION. The steps of the four agents and reset (spec/00_scope.md R5; spec/70_reset_and_hazards.md R195). An agent
that has no move in a state leaves it as it is (log 4): the host outside `READY` (R28), the block in `READY`, in `HALTED`
(R168) and while it holds (R11), the transport when no delegated call waits (R180). -/

namespace Sys2Proof.Machine

/-- The issue of a command word (R92): the word is latched in `CMD`, decoded, and checked; a word that spells no
operation is `IllegalCommand` (R88, R161), whatever the frame state (R165). -/
def State.issueCommand (w : CmdWord) (s : State) : StepResult :=
  let s' := { s with cmd := w }.record (.issue w)
  match decode w with
  | .ok i => exec i s'
  | .error _ => .next (s'.raise .illegalCommand)

/-- The next micro-step of the command in progress, whose operands are read from `CMD` (R26), with what the transport
answers in this step. A `CMD` that spells no operation has no micro-step; no run reaches such a state. -/
def State.continueCommand (answer : Option Answer) (s : State) : StepResult :=
  match decode s.cmd with
  | .ok i => exec i { s with answer := answer }
  | .error _ => .next s

/-- A step of the host, which it has only in `READY` (R28, R195). Its issue takes the next word of its program (R92); with
no word left it has none to issue, and the state is unchanged (log 4). -/
def State.hostMove (a : HostAction) (s : State) : StepResult :=
  match s.phase with
  | .ready =>
      match a with
      | .issue =>
          match s.program with
          | [] => .next s
          | w :: later => { s with program := later }.issueCommand w
      | .setTicksPerBit v => .next (s.setTicksPerBit v)
      | .writeCand addr v => .next { s with cand := s.cand.write addr.toNat v }
      | .writeBuf addr v => .next { s with buf := s.buf.write addr.toNat v }
  | _ => .next s

/-- A micro-step the block takes on its own: a scan, a drain pop, the selection. In `AB_DETECT` and `XPORT_WAIT` it holds
until the transport answers (R173). -/
def State.blockMove (s : State) : StepResult :=
  match s.phase with
  | .ready => .next s
  | .halted => .next s
  | _ => s.continueCommand s.answer

/-- The transport answers the delegated call the block waits for, one joint step (R173). -/
def State.transportMove (a : Answer) (s : State) : StepResult :=
  match s.phase with
  | .abDetect => s.continueCommand (some a)
  | .xportWait => s.continueCommand (some a)
  | _ => .next s

/-- One step of one agent (R68). -/
def State.perform (m : Move) (s : State) : StepResult :=
  match m with
  | .host a => s.hostMove a
  | .block => s.blockMove
  | .transport a => s.transportMove a
  | .push e => .next (s.pushEdge e)
  | .reset => .next s.applyReset

/-- The move that comes next and the state without it: the first that stands in `moves`, else the next free one
(log 2). -/
def State.nextMove (s : State) : Move × State :=
  match s.moves with
  | m :: rest => (m, { s with moves := rest })
  | [] => (Config.freeMove s.drawn, { s with drawn := s.drawn + 1 })

/-- The state in which the word is the next of the host's program and its issue is the move that comes next. -/
def State.placeIssue (w : CmdWord) (s : State) : State :=
  { s with phase := .ready, program := w :: s.program, moves := .host .issue :: s.moves }

end Sys2Proof.Machine
end

