-- ==== Sys2Proof/Machine/Step.lean ====
section
/-! DEFINITION. One step of the machine: the next move of the agents, taken. -/

namespace Sys2Proof.Machine

/-- One step: the agent whose move comes next takes it (R68). -/
def step (s : State) : Host.Outcome State Fault Refusal :=
  s.nextMove.2.perform s.nextMove.1

/-- `s` with the word of a table row as the host's next command (log 2): `PHASE` is `READY`, for only then is a command
accepted (R28), and the host's issue of the word is the next move. -/
def State.withFetchWord (s : State) (nbits w : Nat) : State :=
  s.placeIssue (wordOfTableBits nbits w)

end Sys2Proof.Machine
end

