-- ==== Sys2Proof/Machine/Assembler.lean ====
section
/-! DEFINITION. The assembler syntax (spec/30_encoding.md R91): one command per line, the mnemonic, then the operands in
decimal or `0x` hexadecimal, separated by commas. A line is a list of characters. Blanks may stand between the mnemonic
and the operands and around an operand (log 11). -/

namespace Sys2Proof.Machine

/-- The value of a digit, in a base of at most 16. -/
def digitValue (c : Char) : Option Nat :=
  if '0' ≤ c ∧ c ≤ '9' then some (c.toNat - '0'.toNat)
  else if 'a' ≤ c ∧ c ≤ 'f' then some (c.toNat - 'a'.toNat + 10)
  else if 'A' ≤ c ∧ c ≤ 'F' then some (c.toNat - 'A'.toNat + 10)
  else none

/-- Read digits of a base onto the number read so far. -/
def readDigits (base : Nat) : Nat → List Char → Option Nat
  | acc, [] => some acc
  | acc, c :: cs =>
      match digitValue c with
      | none => none
      | some d => if d < base then readDigits base (acc * base + d) cs else none

/-- A decimal or `0x` hexadecimal number of at least one digit. -/
def readNumber : List Char → Option Nat
  | [] => none
  | ['0', 'x'] => none
  | '0' :: 'x' :: cs => readDigits 16 0 cs
  | cs => readDigits 10 0 cs

/-- The parts of a text between commas. -/
def splitCommas : List Char → List (List Char)
  | [] => [[]]
  | c :: cs =>
      match splitCommas cs with
      | [] => [[c]]
      | part :: parts => if c = ',' then [] :: part :: parts else (c :: part) :: parts

/-- A text without the blanks at its ends. -/
def trimBlanks (cs : List Char) : List Char :=
  ((cs.dropWhile (· == ' ')).reverse.dropWhile (· == ' ')).reverse

/-- Every number of a list, or none if one is missing. -/
def allNumbers : List (Option Nat) → Option (List Nat)
  | [] => some []
  | none :: _ => none
  | some n :: ns =>
      match allNumbers ns with
      | none => none
      | some rest => some (n :: rest)

/-- The operands of a line: none, or numbers separated by commas. -/
def readOperands (cs : List Char) : Option (List Nat) :=
  match trimBlanks cs with
  | [] => some []
  | text => allNumbers ((splitCommas text).map (fun part => readNumber (trimBlanks part)))

/-- The mnemonics of R91, letter for letter. -/
def mnemonics : List (List Char × Op) :=
  [ (['s', 'e', 'n', 'd', 'B', 'r', 'e', 'a', 'k'], .sendBreak),
    (['c', 'h', 'e', 'c', 'k', 'B', 'r', 'e', 'a', 'k'], .checkBreak),
    (['s', 'e', 't', 'A', 'u', 't', 'o', 'B', 'a', 'u', 'd'], .setAutoBaud),
    (['e', 'n', 'd', 'F', 'r', 'a', 'm', 'e'], .endFrame),
    (['r', 'e', 'a', 'd'], .read),
    (['w', 'r', 'i', 't', 'e'], .write) ]

/-- The line an operation and its operands make, the operands in the order of R91. -/
def lineOf : Op → List Nat → Option AsmLine
  | .sendBreak, [] => some .sendBreakBare
  | .sendBreak, [b] => some (.sendBreakOne b)
  | .sendBreak, [b, d] => some (.command (.sendBreak b d))
  | .checkBreak, [] => some (.command .checkBreak)
  | .setAutoBaud, [base, n] => some (.command (.setAutoBaud base n))
  | .endFrame, [] => some (.command .endFrame)
  | .read, [addr, size] => some (.command (.read addr size))
  | .write, [addr, size] => some (.command (.write addr size))
  | _, _ => none

/-- Read one line. -/
def readLine (cs : List Char) : Option AsmLine :=
  let text := trimBlanks cs
  match mnemonics.lookup (text.takeWhile (· != ' ')) with
  | none => none
  | some op =>
      match readOperands (text.dropWhile (· != ' ')) with
      | none => none
      | some operands => lineOf op operands

/-- The word of a line of text. -/
def assembleText (cs : List Char) : Except AsmError CmdWord :=
  match readLine cs with
  | none => .error .unknownLine
  | some l => assemble l

end Sys2Proof.Machine
end

