-- ==== Sys2Proof/Safety.lean ====
section
/-! DEFINITION. The terms claims are stated in: the launch premises (spec/70_reset_and_hazards.md R194), when the block
holds (spec/00_scope.md R11), the invariant of the reachable states (spec/10_state.md R41), and
the producer's contract (spec/20_memory.md R55). -/

namespace Sys2Proof.Machine

/-! ## The launch premises (R194) -/

/-- `NoFault`. -/
abbrev State.NoFault (s : State) : Prop := s.cause = 0

/-- `Ready`. -/
abbrev State.Ready (s : State) : Prop := s.phase = .ready

/-- `FrameIdle`. -/
abbrev State.FrameIdle (s : State) : Prop := s.frameState = .idle

/-- `FrameIn`. -/
abbrev State.FrameIn (s : State) : Prop := s.frameState = .inFrame

/-- `TpbNonZero`. -/
abbrev State.TpbNonZero (s : State) : Prop := s.tpb ≠ 0

/-- `LastEdgeRecessive`: the interval under way is recessive. -/
abbrev State.LastEdgeRecessive (s : State) : Prop := lineLevel s.lastEdge s.par.invert = true

/-- `QueueIs(l)`. -/
abbrev State.QueueIs (s : State) (l : List EventWord) : Prop := s.q = l

/-- `CandIs(base, list)`: the words from `base` on are those of the list. -/
abbrev State.CandIs (s : State) (base : Nat) (list : List Baud) : Prop :=
  s.readCand base list.length = list

/-! ## Commands in progress and holds -/

/-- A command is in progress: `PHASE` is neither `READY` nor `HALTED` (R27). -/
abbrev State.InProgress (s : State) : Prop := s.phase ≠ .ready ∧ s.phase ≠ .halted

/-- The block holds (R11): the drain with `Q` empty, or a delegated call the transport has not answered. -/
abbrev State.Holds (s : State) : Prop :=
  (s.phase = .abDrain ∧ s.q = []) ∨ s.phase = .abDetect ∨ s.phase = .xportWait

/-! ## The invariant (R41, with what R27, R30, R31, R57 and R6 say of every reachable state) -/

/-- `PHASE` names a micro-step of the operation in `CMD`, which has passed its checks at issue (R27, R142, R104). -/
def State.cmdAgrees (s : State) : Bool :=
  match s.phase with
  | .ready => true
  | .halted => true
  | .cbScan => decide (decode s.cmd = .ok .checkBreak)
  | .xportWait =>
      match decode s.cmd with
      | .ok (.sendBreak _ _) => decide (s.frameState = .idle)
      | .ok (.read addr size) => decide (s.frameState = .inFrame) && bufRangeOk addr size
      | .ok (.write addr size) => decide (s.frameState = .inFrame) && bufRangeOk addr size
      | _ => false
  | _ =>
      match decode s.cmd with
      | .ok (.setAutoBaud base n) => decide (n ≠ 0) && candRangeOk base n
      | _ => false

/-- The queue is within its capacity (R57). -/
def State.queueFits (s : State) : Bool :=
  match s.par.qcap with
  | none => true
  | some c => decide (s.q.length ≤ c)

/-- The invariant of the reachable states. -/
structure State.Inv (s : State) : Prop where
  /-- R41, R30: `PHASE = HALTED` exactly when `CAUSE != 0`. -/
  halted_iff : s.phase = .halted ↔ s.cause ≠ 0
  /-- R41: `DRAIN_LEFT != 0` only when `PHASE = AB_DRAIN`; and there it is not 0 (R142). -/
  drain_iff : s.drainLeft ≠ 0 ↔ s.phase = .abDrain
  /-- R41: in the phases of `setAutoBaud` the frame state is `InFrame` and `TPB` holds `TPB_REF`. -/
  autobaud : s.phase = .abDetect ∨ s.phase = .abDrain ∨ s.phase = .abSelect →
    s.frameState = .inFrame ∧ s.tpb = s.par.tpbRef
  /-- R41: `PHASE = CB_SCAN` implies `FRAME_STATE = Idle`. -/
  scan_idle : s.phase = .cbScan → s.frameState = .idle
  /-- R27: the phase belongs to the command in `CMD`. -/
  cmd_agrees : s.cmdAgrees = true
  /-- R160: codes 8 to 15 are never written. -/
  cause_code : s.cause.toNat < 8
  /-- R31: `FAULT_CMD` is the command of the fault, and 0 while there is none. -/
  fault_cmd : s.faultCmd = if s.cause = 0 then 0 else s.cmd
  /-- R57: the queue is within its capacity. -/
  queue_fits : s.queueFits = true
  /-- `CAND` is in its canonical form, within its addresses (R58). -/
  cand_wf : s.cand.wf Config.candWords = true
  /-- `BUF` is in its canonical form, within its addresses (R60). -/
  buf_wf : s.buf.wf Config.bufBytes = true
  /-- R6: the parameters meet their constraints. -/
  par_legal : s.par.Legal
  /-- Between steps the transport has no answer under way (R173). -/
  no_answer : s.answer = none

/-! ## What a scan finds (R125 to R130) -/

/-- Whether the `j`-th interval a scan of this state measures is a break (R125): the interval from the `j`-th to the
next of the events `LAST_EDGE, q_0, q_1, ...`, by the level and the bit count of Flags.lean and Operands.lean. -/
def State.breakAt (s : State) (j : Nat) : Bool :=
  match (s.lastEdge :: s.q)[j]?, s.q[j]? with
  | some p, some e => isBreak (lineLevel p s.par.invert) (bitCount (interval e p) s.tpb.toNat)
  | _, _ => false

/-! ## The producer's contract (R55) -/

/-- A transition of the receive line: the tick it happens at, and the raw level of the pin after it. -/
structure Transition where
  tick : Nat
  level : Bool
  deriving DecidableEq, Repr

/-- The event word of a transition (R55 (b)): the tick modulo `2^TS_W` with bit 0 replaced by the level. -/
def Transition.word (t : Transition) : EventWord :=
  BitVec.ofNat 32 (2 * (t.tick / 2) + t.level.toNat)

/-- What the contract says of two successive transitions (R55): in order, fewer than `2^TS_W` ticks apart, and each one
a change of the level. -/
abbrev Transition.Follows (e p : Transition) : Prop :=
  p.tick ≤ e.tick ∧ e.tick - p.tick < 2 ^ 32 ∧ e.level ≠ p.level

/-- The producer's contract for a sequence of transitions (R55): one event per transition, in order. -/
def ProducerContract : List Transition → Prop
  | [] => True
  | [_] => True
  | p :: e :: rest => e.Follows p ∧ ProducerContract (e :: rest)

end Sys2Proof.Machine
end

