-- ==== Sys2Proof/Certificates/Slice0/Obligations.lean ====
section
/-! DEFINITION. The statements for the provers. -/

open Sys2Proof Sys2Proof.Machine

/-! ## Encoding (spec/30_encoding.md) -/

/-- Decoding an encoded well-formed command gives it back, for every command and every operand its fields admit
(R81 to R87). -/
def Obligations.DecodeOfEncode : Prop :=
  ∀ i : Instr, i.wf = true → decode (encode i) = .ok i

/-- A decoded command is well-formed, and its word is the one it was decoded from: the decoder drops no bit (R81 to
R88). -/
def Obligations.EncodeOfDecode : Prop :=
  ∀ (w : CmdWord) (i : Instr), decode w = .ok i → i.wf = true ∧ encode i = w

/-- The opcode table (R87): a word is decoded to the operation of a row exactly when `w and mask = match`, for each of
the six rows; and no word spells two rows. -/
def Obligations.DecoderMatchesOpcodeTable : Prop :=
  (∀ w : CmdWord,
    (w &&& 0xFFFF0000 = 0x10000000 ↔ ∃ b d, decode w = .ok (.sendBreak b d)) ∧
    (w &&& 0xFFFFFFFF = 0x20000000 ↔ decode w = .ok .checkBreak) ∧
    (w &&& 0xF0000000 = 0x30000000 ↔ ∃ base n, decode w = .ok (.setAutoBaud base n)) ∧
    (w &&& 0xFFFFFFFF = 0x40000000 ↔ decode w = .ok .endFrame) ∧
    (w &&& 0xF0000000 = 0x50000000 ↔ ∃ addr size, decode w = .ok (.read addr size)) ∧
    (w &&& 0xF0000000 = 0x60000000 ↔ ∃ addr size, decode w = .ok (.write addr size))) ∧
  (∀ (w : CmdWord), ∀ r ∈ opcodeTable, ∀ r' ∈ opcodeTable,
    r.spelledBy w = true → r'.spelledBy w = true → r = r')

/-- The illegal words (R88) are exactly: opcode 0, opcodes 7 to 15, and words of opcodes 1, 2, 4 with a must-be-zero field
that is not zero, the all-zero and the all-ones word among them; issuing one raises `Fault(1)`, which halts the block. -/
def Obligations.IllegalWordsFault : Prop :=
  (∀ w : CmdWord, (∃ e, decode w = .error e) ↔
    (field w 31 28 = 0 ∨ 7 ≤ field w 31 28 ∨ (field w 31 28 = 1 ∧ field w 27 16 ≠ 0) ∨
      ((field w 31 28 = 2 ∨ field w 31 28 = 4) ∧ field w 27 0 ≠ 0))) ∧
  (∃ e, decode 0 = .error e) ∧ (∃ e, decode (BitVec.allOnes 32) = .error e) ∧
  (∀ w : CmdWord, (∃ i, decode w = .ok i) ∨ ∃ e, decode w = .error e) ∧
  (∀ (s : State) (w : CmdWord) (later : List CmdWord) (rest : List Move) (e : DecodeError),
    s.moves = .host .issue :: rest → s.program = w :: later → s.phase = .ready → decode w = .error e →
    step s = .next { s with
      moves := rest, program := later, cmd := w, cause := 1, faultCmd := w, phase := .halted,
      trace := s.trace ++ [.issue w, .fault 1 w] })

/-- A few words of the spec's own table (spec/95_test_vectors.md family E), written out, decode to what they stand for. -/
def Obligations.SpecWordsDecode : Prop :=
  decode 0x10000D01 = .ok (.sendBreak 13 1) ∧ decode 0x1000FFFF = .ok (.sendBreak 255 255) ∧
  decode 0x20000000 = .ok .checkBreak ∧ decode 0x30020008 = .ok (.setAutoBaud 8 2) ∧
  decode 0x3FFFFFFF = .ok (.setAutoBaud 65535 4095) ∧ decode 0x40000000 = .ok .endFrame ∧
  decode 0x50020010 = .ok (.read 0x0010 2) ∧ decode 0x60081234 = .ok (.write 0x1234 8)

/-- The assembler (R91): each line's word is the opcode word or-ed with its shifted operands; the short forms of
`sendBreak` carry the defaults; an operand that does not fit its field is an error. -/
def Obligations.AssemblerWords : Prop :=
  (∀ b d, b < 256 → d < 256 → assemble (.command (.sendBreak b d)) =
    .ok (0x10000000#32 ||| (BitVec.ofNat 32 b <<< 8) ||| BitVec.ofNat 32 d)) ∧
  assemble (.command .checkBreak) = .ok 0x20000000 ∧
  (∀ base n, base < 65536 → n < 4096 → assemble (.command (.setAutoBaud base n)) =
    .ok (0x30000000#32 ||| (BitVec.ofNat 32 n <<< 16) ||| BitVec.ofNat 32 base)) ∧
  assemble (.command .endFrame) = .ok 0x40000000 ∧
  (∀ addr size, addr < 65536 → size < 4096 → assemble (.command (.read addr size)) =
    .ok (0x50000000#32 ||| (BitVec.ofNat 32 size <<< 16) ||| BitVec.ofNat 32 addr)) ∧
  (∀ addr size, addr < 65536 → size < 4096 → assemble (.command (.write addr size)) =
    .ok (0x60000000#32 ||| (BitVec.ofNat 32 size <<< 16) ||| BitVec.ofNat 32 addr)) ∧
  assemble .sendBreakBare = .ok 0x10000D01 ∧
  (∀ b, assemble (.sendBreakOne b) = assemble (.command (.sendBreak b 1))) ∧
  (∀ i : Instr, i.wf = false → assemble (.command i) = .error .operandDoesNotFit)

/-! ## Steps and agents (spec/00_scope.md R5, R92; spec/60_exceptions.md; spec/70_reset_and_hazards.md) -/

/-- A step runs the decoded command: when the host's move is the issue of a word that decodes to a well-formed command `i`
and the block is `READY`, the step is `exec i` at the state with the word taken from the program and latched in `CMD`,
`Issue` recorded and the move taken (R92). -/
def Obligations.StepRunsIssuedCommand : Prop :=
  ∀ (s : State) (w : CmdWord) (later : List CmdWord) (rest : List Move) (i : Instr),
    s.moves = .host .issue :: rest → s.program = w :: later → s.phase = .ready → decode w = .ok i → i.wf = true →
    step s = exec i { s with moves := rest, program := later, cmd := w, trace := s.trace ++ [.issue w] }

/-- A step of a command in progress runs the command in `CMD` (R26): on the block's own move, and on the transport's move
with its answer, where a delegated call waits (R173). -/
def Obligations.StepContinuesCommand : Prop :=
  (∀ (s : State) (rest : List Move) (i : Instr),
    s.moves = .block :: rest → s.InProgress → decode s.cmd = .ok i →
    step s = exec i { s with moves := rest }) ∧
  (∀ (s : State) (a : Answer) (rest : List Move) (i : Instr),
    s.moves = .transport a :: rest → (s.phase = .abDetect ∨ s.phase = .xportWait) → decode s.cmd = .ok i →
    step s = exec i { s with moves := rest, answer := some a })

/-- Who has no move (log 4 for a move not enabled): the host outside `READY` (R28), or with no word left to issue (R92), the
block in `READY` and in `HALTED`, the transport where no delegated call waits (R180). The state is unchanged but for the
move; a word of the program stays to be issued. -/
def Obligations.AgentWithoutMoveChangesNothing : Prop :=
  (∀ (s : State) (a : HostAction) (rest : List Move),
    s.moves = .host a :: rest → s.phase ≠ .ready → step s = .next { s with moves := rest }) ∧
  (∀ (s : State) (rest : List Move),
    s.moves = .host .issue :: rest → s.program = [] → step s = .next { s with moves := rest }) ∧
  (∀ (s : State) (rest : List Move),
    s.moves = .block :: rest → (s.phase = .ready ∨ s.phase = .halted) → step s = .next { s with moves := rest }) ∧
  (∀ (s : State) (a : Answer) (rest : List Move),
    s.moves = .transport a :: rest → s.phase ≠ .abDetect → s.phase ≠ .xportWait →
    step s = .next { s with moves := rest })

/-- The host's moves in `READY` (R58, R60, R171): `setTicksPerBit` sets `TPB` at once; a write of `CAND` or `BUF` is read
back, and every other address reads as before. -/
def Obligations.HostWritesInReady : Prop :=
  (∀ (s : State) (v : TicksPerBit) (rest : List Move),
    s.moves = .host (.setTicksPerBit v) :: rest → s.phase = .ready →
    step s = .next { s with moves := rest, tpb := v, trace := s.trace ++ [.setTpb v] }) ∧
  (∀ (s : State) (addr : BitVec 16) (v : Baud) (rest : List Move),
    s.moves = .host (.writeCand addr v) :: rest → s.phase = .ready →
    ∃ m : Memory Baud, step s = .next { s with moves := rest, cand := m } ∧
      m.read addr.toNat = some v ∧ ∀ b, b ≠ addr.toNat → m.read b = s.cand.read b) ∧
  (∀ (s : State) (addr : BitVec 16) (v : Byte) (rest : List Move),
    s.moves = .host (.writeBuf addr v) :: rest → s.phase = .ready →
    ∃ m : Memory Byte, step s = .next { s with moves := rest, buf := m } ∧
      m.read addr.toNat = some v ∧ ∀ b, b ≠ addr.toNat → m.read b = s.buf.read b)

/-- The checks at issue and their order (R165), and what a fault at issue changes: the word in `CMD` and the fault
record, nothing else (R161, R162, R163). An illegal word is cause 1; then the frame state, cause 2 or 3; then an empty
candidate list, cause 4; then an operand range past its space, cause 5. -/
def Obligations.IssueChecksInOrder : Prop :=
  ∀ (s : State) (w : CmdWord) (later : List CmdWord) (rest : List Move),
    s.moves = .host .issue :: rest → s.program = w :: later → s.phase = .ready →
    let faultWith (code : BitVec 4) : StepResult := .next { s with
      moves := rest, program := later, cmd := w, cause := code, faultCmd := w, phase := .halted,
      trace := s.trace ++ [.issue w, .fault code w] }
    (∀ e, decode w = .error e → step s = faultWith 1) ∧
    (∀ b d, decode w = .ok (.sendBreak b d) → s.frameState = .inFrame → step s = faultWith 2) ∧
    (decode w = .ok .checkBreak → s.frameState = .inFrame → step s = faultWith 2) ∧
    (∀ base n, decode w = .ok (.setAutoBaud base n) →
      (s.frameState = .idle → step s = faultWith 3) ∧
      (s.frameState = .inFrame → n = 0 → step s = faultWith 4) ∧
      (s.frameState = .inFrame → n ≠ 0 → 65536 < base + n → step s = faultWith 5)) ∧
    (∀ addr size, decode w = .ok (.read addr size) →
      (s.frameState = .idle → step s = faultWith 3) ∧
      (s.frameState = .inFrame → 65536 < addr + size → step s = faultWith 5)) ∧
    (∀ addr size, decode w = .ok (.write addr size) →
      (s.frameState = .idle → step s = faultWith 3) ∧
      (s.frameState = .inFrame → 65536 < addr + size → step s = faultWith 5))

/-- No return from a fault (R168): in `HALTED` every move but reset leaves `HALTED`, the fault record and every other
register as they are, no command is accepted, and reset leaves the state; and in every state no step but reset clears the
fault record. -/
def Obligations.HaltedIsLeftOnlyByReset : Prop :=
  (∀ s : State, s.phase = .halted → s.nextMove.1 ≠ .reset →
    ∃ t, step s = .next t ∧ t.phase = .halted ∧ t.cause = s.cause ∧ t.faultCmd = s.faultCmd ∧ t.cmd = s.cmd ∧
      t.frameState = s.frameState ∧ t.lastEdge = s.lastEdge ∧ t.savedTpb = s.savedTpb ∧ t.raw = s.raw ∧
      t.drainLeft = s.drainLeft ∧ t.result = s.result ∧ t.tpb = s.tpb ∧ t.cand = s.cand ∧ t.buf = s.buf ∧
      t.program = s.program) ∧
  (∀ s : State, s.nextMove.1 = .reset →
    ∃ t, step s = .next t ∧ t.phase = .ready ∧ t.cause = 0 ∧ t.faultCmd = 0) ∧
  (∀ s t : State, s.nextMove.1 ≠ .reset → step s = .next t → s.cause ≠ 0 → t.cause ≠ 0)

/-- Taking a fatal fault (R166, R167): a step that halts the block records a cause 1 to 7 and the command word in `CMD`,
adds the `Fault` event last and no `Done`, and leaves the frame state, `RESULT`, `TPB`, `SAVED_TPB`, `RAW` and the operand
memories as they were; what was done before it is only the latched word, or for cause 6 the popped event; cause 6 arises
in the scan and cause 7 in the selection only (R164). -/
def Obligations.FaultEntryIsPrecise : Prop :=
  ∀ s t : State, step s = .next t → s.phase ≠ .halted → t.phase = .halted →
    1 ≤ t.cause.toNat ∧ t.cause.toNat ≤ 7 ∧ t.faultCmd = t.cmd ∧
    (∃ added, t.trace = s.trace ++ added ++ [.fault t.cause t.cmd] ∧ ∀ op v, Event.done op v ∉ added) ∧
    t.frameState = s.frameState ∧ t.result = s.result ∧ t.tpb = s.tpb ∧ t.savedTpb = s.savedTpb ∧ t.raw = s.raw ∧
    t.drainLeft = s.drainLeft ∧ t.cand = s.cand ∧ t.buf = s.buf ∧
    (t.cause = 6 → s.phase = .cbScan ∧ ∃ e, s.q = e :: t.q ∧ t.lastEdge = e) ∧
    (t.cause = 7 → s.phase = .abSelect) ∧
    (t.cause ≠ 6 → t.q = s.q ∧ t.lastEdge = s.lastEdge) ∧
    (t.cause.toNat ≤ 5 → s.phase = .ready)

/-- Reset (R190): in any state it sets every register to its reset value, empties `Q`, sets `TPB` to `TPB_INIT`, leaves
`CAND` and `BUF` as they are, and records `Reset`. -/
def Obligations.ResetStepValues : Prop :=
  ∀ s : State, s.nextMove.1 = .reset →
    ∃ t, step s = .next t ∧ t.frameState = .idle ∧ t.lastEdge = (if s.par.invert then 0 else 1) ∧ t.savedTpb = 0 ∧
      t.raw = 0 ∧ t.drainLeft = 0 ∧ t.result = 0 ∧ t.cmd = 0 ∧ t.phase = .ready ∧ t.cause = 0 ∧ t.faultCmd = 0 ∧
      t.q = [] ∧ t.tpb = s.par.tpbInit ∧ t.cand = s.cand ∧ t.buf = s.buf ∧ t.trace = s.trace ++ [.reset]

/-- The state after reset (R40): the registers' values under the OPEN parameters, and no fault. The values of the fields
`queueOverflow`, `program`, `nextPrograms`, `runEnded`, `moves`, `drawn`, `answer` and of the operand memories are the
model's (log 2, log 6, log 12) and not stated. -/
def Obligations.ResetStateValues : Prop :=
  State.reset.frameState = .idle ∧ State.reset.lastEdge = (if State.reset.par.invert then 0 else 1) ∧
  State.reset.savedTpb = 0 ∧ State.reset.raw = 0 ∧ State.reset.drainLeft = 0 ∧ State.reset.result = 0 ∧
  State.reset.cmd = 0 ∧ State.reset.phase = .ready ∧ State.reset.cause = 0 ∧ State.reset.faultCmd = 0 ∧
  State.reset.q = [] ∧ State.reset.tpb = State.reset.par.tpbInit ∧ State.reset.LastEdgeRecessive

/-- The invariant holds at reset. -/
def Obligations.ResetMeetsInvariant : Prop :=
  State.reset.Inv

/-- Every step keeps the invariant, from every state that meets it: the checks of R41, `PHASE` and `CMD` agree, the
operand memories keep their canonical form within their addresses, the queue its capacity, the fault record its form. -/
def Obligations.StepKeepsInvariant : Prop :=
  ∀ s t : State, s.Inv → step s = .next t → t.Inv

/-- What R41 says a model can check after every step, after a step from a state that meets the invariant. -/
def Obligations.StepLeavesChecksTrue : Prop :=
  ∀ s t : State, s.Inv → step s = .next t →
    (t.phase = .halted ↔ t.cause ≠ 0) ∧ (t.drainLeft ≠ 0 → t.phase = .abDrain) ∧
    (t.phase = .abDetect ∨ t.phase = .abDrain ∨ t.phase = .abSelect →
      t.frameState = .inFrame ∧ t.tpb = t.par.tpbRef) ∧
    (t.phase = .cbScan → t.frameState = .idle)

/-- From a state that meets the invariant every step answers a next state: the outcomes of a micro-step are those of R11,
a fatal fault of the block and a hold among them, and an operand nobody wrote is no other (its content is any value,
log 6). -/
def Obligations.StepAlwaysAnswers : Prop :=
  ∀ s : State, s.Inv → ∃ t, step s = .next t

/-! ## The edge queue (spec/20_memory.md R50 to R57) -/

/-- The producer's push (R55, R57): with room, the event is appended at the young end; onto a full queue it is the
producer's fault, kept, with no event dropped and the block not halted; the model's choice that a faulted producer pushes
no more is log 7. -/
def Obligations.ProducerPush : Prop :=
  ∀ (s : State) (e : EventWord) (rest : List Move), s.moves = .push e :: rest →
    (s.queueOverflow = false → (∀ c, s.par.qcap = some c → s.q.length < c) →
      step s = .next { s with moves := rest, q := s.q ++ [e], trace := s.trace ++ [.push e] }) ∧
    (∀ c, s.queueOverflow = false → s.par.qcap = some c → c ≤ s.q.length →
      step s = .next { s with moves := rest, queueOverflow := true }) ∧
    (s.queueOverflow = true → step s = .next { s with moves := rest })

/-- Events leave in the order they entered, from the old end only (R50, R53, R54, R179): what a command's micro-step
leaves of `Q` is `Q` without some of its oldest events, and the block's own pop removes exactly the oldest and returns it,
exactly when one is available (R51). -/
def Obligations.QueueLosesOnlyItsOldest : Prop :=
  (∀ (i : Instr) (s t : State), exec i s = .next t → ∃ k, t.q = s.q.drop k) ∧
  (∀ s : State, s.edgeAvailable = true ↔ s.q ≠ []) ∧
  (∀ s : State, s.edgeAvailable = true → ∃ e t, s.popEdge = some (e, t) ∧ s.q = e :: t.q ∧ t.lastEdge = e ∧
    t.trace = s.trace ++ [.pop e]) ∧
  (∀ s : State, s.edgeAvailable = false → s.popEdge = none)

/-! ## The interval decoder (spec/41_break_detector.md R120 to R124, R132) -/

/-- `Bits(t, tpb)` (R120): the floor of the quotient, one more when the remainder exceeds half a bit period, by either
form of the test; an exact half stays down; so the count is the nearest, a half going down. -/
def Obligations.BitCountRounds : Prop :=
  ∀ t tpb : Nat, 0 < tpb →
    bitCount t tpb = t / tpb + (if 2 * (t % tpb) > tpb then 1 else 0) ∧
    bitCount t tpb = t / tpb + (if t % tpb > tpb / 2 then 1 else 0) ∧
    (2 * (t % tpb) = tpb → bitCount t tpb = t / tpb) ∧
    2 * (bitCount t tpb * tpb) < 2 * t + tpb ∧ 2 * t ≤ 2 * (bitCount t tpb * tpb) + tpb

/-- The range of a bit count (R121). -/
def Obligations.BitCountRange : Prop :=
  (∀ t tpb : Nat, t < 2 ^ 32 → 0 < tpb → bitCount t tpb ≤ t / tpb + 1 ∧ t / tpb + 1 ≤ 2 ^ 32) ∧
  (∀ tpb : Nat, 0 < tpb → bitCount 0 tpb = 0) ∧ (∀ t : Nat, bitCount t 1 = t) ∧
  (∀ t t' tpb : Nat, 0 < tpb → t ≤ t' → bitCount t tpb ≤ bitCount t' tpb)

/-- The closed form of the break test (R124), with the examples it gives. -/
def Obligations.BreakThreshold : Prop :=
  (∀ t tpb : Nat, 0 < tpb → (13 ≤ bitCount t tpb ↔ 12 * tpb + tpb / 2 + 1 ≤ t)) ∧
  (∀ t tpb k : Nat, 0 < tpb → 1 ≤ k → (k ≤ bitCount t tpb ↔ (k - 1) * tpb + tpb / 2 + 1 ≤ t)) ∧
  (∀ t : Nat, (13 ≤ bitCount t 104 ↔ 1301 ≤ t) ∧ (13 ≤ bitCount t 105 ↔ 1313 ≤ t) ∧
    (13 ≤ bitCount t 2 ↔ 26 ≤ t) ∧ (13 ≤ bitCount t 1 ↔ 13 ≤ t))

/-- Under the producer's contract (R55) the interval measured between two successive events is the true one, modulo
`2^32`, but for at most two ticks: too long by 0 to 2 where the line rises at its end, too short by 0 to 2 where it
falls (R122; the count of two is an inference of the model, log 9). -/
def Obligations.MeasuredInterval : Prop :=
  ∀ e p : Transition, e.Follows p →
    (e.level = true → ∃ d, d ≤ 2 ∧ interval e.word p.word = (e.tick - p.tick + d) % 2 ^ 32) ∧
    (e.level = false → ∃ d, d ≤ 2 ∧ (interval e.word p.word + d) % 2 ^ 32 = e.tick - p.tick)

/-- A break on the line is detected (R132 (a), under the contract of R55 with `INVERT = 0`): the line fell at `p` and rises
at `e` at least 13 bit-times later, `LAST_EDGE` is the event of `p` and the event of `e` heads the queue. A dominant
interval shorter than the threshold of R124 by three ticks or more is not. -/
def Obligations.TrueBreakIsDetected : Prop :=
  ∀ (s : State) (p e : Transition) (rest : List EventWord),
    s.phase = .cbScan → s.par.invert = false → s.tpb ≠ 0 → s.lastEdge = p.word → s.q = e.word :: rest →
    e.Follows p → p.level = false → e.tick - p.tick + 2 < 2 ^ 32 →
    (13 * s.tpb.toNat ≤ e.tick - p.tick →
      ∃ t, exec .checkBreak s = .next t ∧ t.frameState = .inFrame ∧ t.result = 1 ∧ t.phase = .ready ∧ t.q = rest) ∧
    (e.tick - p.tick + 2 < 12 * s.tpb.toNat + s.tpb.toNat / 2 + 1 →
      ∃ t, exec .checkBreak s = .next t ∧ t.frameState = s.frameState ∧ t.phase = .cbScan ∧ t.q = rest)

/-! ## checkBreak (spec/41_break_detector.md R125 to R131) -/

/-- `checkBreak` (R125), micro-step by micro-step: it starts in `Idle`; with no event it completes with false; a zero
`TPB` faults after the pop (R123); a dominant interval of at least 13 bits is a break; anything else is skipped. -/
def Obligations.CheckBreakSteps : Prop :=
  (∀ s : State, s.phase = .ready → s.frameState = .idle → exec .checkBreak s = .next { s with phase := .cbScan }) ∧
  (∀ s : State, s.phase = .cbScan → s.q = [] → exec .checkBreak s = .next { s with
    result := 0, phase := .ready, trace := s.trace ++ [.done .checkBreak (some 0)] }) ∧
  (∀ (s : State) (e : EventWord) (rest : List EventWord), s.phase = .cbScan → s.q = e :: rest →
    let bits := bitCount (e - s.lastEdge).toNat s.tpb.toNat
    let dominant := (s.lastEdge.getLsbD 0 ^^ s.par.invert) = false
    (s.tpb = 0 → exec .checkBreak s = .next { s with
      q := rest, lastEdge := e, cause := 6, faultCmd := s.cmd, phase := .halted,
      trace := s.trace ++ [.pop e, .fault 6 s.cmd] }) ∧
    (s.tpb ≠ 0 → dominant → 13 ≤ bits → exec .checkBreak s = .next { s with
      q := rest, lastEdge := e, frameState := .inFrame, result := 1, phase := .ready,
      trace := s.trace ++ [.pop e, .done .checkBreak (some 1)] }) ∧
    (s.tpb ≠ 0 → ¬ (dominant ∧ 13 ≤ bits) → exec .checkBreak s = .next { s with
      q := rest, lastEdge := e, trace := s.trace ++ [.pop e] }))

/-- A whole `checkBreak` that finds a break (R125, R130): issued in `Idle` with a non-zero `TPB`, its first break at the
interval `j`, it ends after `j + 1` scan steps with true and `InFrame`, the event that ended the break in `LAST_EDGE`,
and the events behind it still queued. -/
def Obligations.CheckBreakFindsFirstBreak : Prop :=
  ∀ (s : State) (j : Nat) (later : List CmdWord) (rest : List Move),
    s.phase = .ready → s.frameState = .idle → s.tpb ≠ 0 →
    s.program = 0x20000000 :: later → s.moves = .host .issue :: (List.replicate (j + 1) .block ++ rest) →
    s.breakAt j = true → (∀ k, k < j → s.breakAt k = false) →
    ∃ t, core.run (j + 2) s = .next t ∧ t.frameState = .inFrame ∧ t.result = 1 ∧ t.phase = .ready ∧
      some t.lastEdge = s.q[j]? ∧ t.q = s.q.drop (j + 1) ∧ t.tpb = s.tpb ∧ t.program = later ∧
      t.moves = rest

/-- A whole `checkBreak` that finds none (R126, R129, R131): with `n` events queued, none of them ending a break, it ends
after `n + 1` scan steps with false, still `Idle`, every event consumed and the last of them in `LAST_EDGE`. -/
def Obligations.CheckBreakWithoutBreak : Prop :=
  ∀ (s : State) (later : List CmdWord) (rest : List Move),
    s.phase = .ready → s.frameState = .idle → s.tpb ≠ 0 →
    s.program = 0x20000000 :: later → s.moves = .host .issue :: (List.replicate (s.q.length + 1) .block ++ rest) →
    (∀ k, s.breakAt k = false) →
    ∃ t, core.run (s.q.length + 2) s = .next t ∧ t.frameState = .idle ∧ t.result = 0 ∧ t.phase = .ready ∧
      t.q = [] ∧ some t.lastEdge = (s.lastEdge :: s.q).getLast? ∧ t.tpb = s.tpb ∧ t.program = later ∧
      t.moves = rest

/-- A push during the scan (R126, R131): with an event queued and an unbounded queue, a push before a scan step and the
same push after it leave the same state, but for the order of the two events in the trace. -/
def Obligations.PushCommutesWithScan : Prop :=
  ∀ (s : State) (e : EventWord) (rest : List Move),
    s.phase = .cbScan → decode s.cmd = .ok .checkBreak → s.q ≠ [] → s.par.qcap = none →
    ∃ t u, core.run 2 { s with moves := .push e :: .block :: rest } = .next t ∧
      core.run 2 { s with moves := .block :: .push e :: rest } = .next u ∧
      { t with trace := [] } = { u with trace := [] }

/-- The frame of `checkBreak` (R125): beside `PHASE`, the trace and the fault record it writes only `Q` (its oldest
event), `LAST_EDGE`, `FRAME_STATE` and `RESULT`, and those only in the scan; a fault record is written only when it
halts; `TPB` and both operand memories are never written. -/
def Obligations.CheckBreakFrame : Prop :=
  ∀ s t : State, exec .checkBreak s = .next t →
    t.savedTpb = s.savedTpb ∧ t.raw = s.raw ∧ t.drainLeft = s.drainLeft ∧ t.cmd = s.cmd ∧ t.tpb = s.tpb ∧
    t.par = s.par ∧ (∀ a, t.cand.read a = s.cand.read a) ∧ (∀ a, t.buf.read a = s.buf.read a) ∧
    t.queueOverflow = s.queueOverflow ∧ t.answer = s.answer ∧ t.program = s.program ∧
    t.nextPrograms = s.nextPrograms ∧ t.runEnded = s.runEnded ∧ t.moves = s.moves ∧ t.drawn = s.drawn ∧
    (t.phase ≠ .halted → t.cause = s.cause ∧ t.faultCmd = s.faultCmd) ∧
    (s.phase ≠ .cbScan → t.q = s.q ∧ t.lastEdge = s.lastEdge ∧ t.frameState = s.frameState ∧ t.result = s.result) ∧
    (t.frameState ≠ s.frameState → t.result = 1 ∧ t.phase = .ready) ∧
    (t.phase ≠ .ready → t.result = s.result)

/-! ## sendBreak, endFrame, read, write (spec/40_frame_lifecycle.md) -/

/-- `sendBreak` (R101): issued in `Idle` it waits for the transport; when the transport answers it emits a dominant
period of `breakBits` bit-times and a recessive one of `delimiterBits`, exact products with the present `TPB`, for any
operands, zeros included, and moves to `InFrame`; `RESULT` is unchanged. Until then it holds (R173). -/
def Obligations.SendBreakSteps : Prop :=
  ∀ (breakBits delimiterBits : Nat) (s : State),
    (s.phase = .ready → s.frameState = .idle →
      exec (.sendBreak breakBits delimiterBits) s = .next { s with phase := .xportWait }) ∧
    (s.phase = .xportWait → s.answer = none → exec (.sendBreak breakBits delimiterBits) s = .next s) ∧
    (∀ a, s.phase = .xportWait → s.answer = some a →
      exec (.sendBreak breakBits delimiterBits) s = .next { s with
        frameState := .inFrame, phase := .ready, lastEdge := a.lastEdge, q := s.q.drop (min a.consumed s.q.length),
        answer := none,
        trace := s.trace ++
          [.call (.emitPeriod (breakBits * s.tpb.toNat) (delimiterBits * s.tpb.toNat) s.par.invert),
            .done .sendBreak none] })

/-- The frame of `sendBreak` (R101, R179). -/
def Obligations.SendBreakFrame : Prop :=
  ∀ (breakBits delimiterBits : Nat) (s t : State), exec (.sendBreak breakBits delimiterBits) s = .next t →
    t.savedTpb = s.savedTpb ∧ t.raw = s.raw ∧ t.drainLeft = s.drainLeft ∧ t.result = s.result ∧ t.cmd = s.cmd ∧
    t.tpb = s.tpb ∧ t.par = s.par ∧ (∀ a, t.cand.read a = s.cand.read a) ∧ (∀ a, t.buf.read a = s.buf.read a) ∧
    t.queueOverflow = s.queueOverflow ∧ t.program = s.program ∧
    t.nextPrograms = s.nextPrograms ∧ t.runEnded = s.runEnded ∧ t.moves = s.moves ∧ t.drawn = s.drawn ∧
    (t.phase ≠ .halted → t.cause = s.cause ∧ t.faultCmd = s.faultCmd) ∧
    (s.phase ≠ .xportWait → t.q = s.q ∧ t.lastEdge = s.lastEdge ∧ t.frameState = s.frameState ∧
      t.answer = s.answer) ∧
    (t.frameState ≠ s.frameState → t.frameState = .inFrame ∧ t.phase = .ready)

/-- `endFrame` (R103): in either frame state it moves to `Idle` and completes, and changes nothing else: the whole next
state is given, which is its frame. Issued again it has the same effect. It does not clear a fatal
fault. Its word is `0x40000000`, and with a bit of `[27:0]` set the word is illegal. -/
def Obligations.EndFrameSteps : Prop :=
  decode 0x40000000 = .ok .endFrame ∧
  (∀ w : CmdWord, field w 31 28 = 4 → field w 27 0 ≠ 0 → ∃ e, decode w = .error e) ∧
  (∀ s : State, s.phase = .ready → exec .endFrame s = .next { s with
    frameState := .idle, phase := .ready, trace := s.trace ++ [.done .endFrame none] }) ∧
  (∀ s : State, s.phase = .halted → exec .endFrame s = .next s) ∧
  (∀ s t u : State, s.phase = .ready → exec .endFrame s = .next t → exec .endFrame t = .next u →
    u = { t with trace := t.trace ++ [.done .endFrame none] })

/-- `read` (R104, R105): issued in `InFrame` with its range in `BUF` it waits for the transport; the `c` bytes received,
at most `size`, go to `BUF[addr]` on in the order received, `RESULT` is `c`, every other byte of `BUF` reads as before,
and the frame state stays. -/
def Obligations.ReadStoresReceivedBytes : Prop :=
  ∀ (addr size : Nat) (s : State), addr + size ≤ 65536 →
    (s.phase = .ready → s.frameState = .inFrame → exec (.read addr size) s = .next { s with phase := .xportWait }) ∧
    (s.phase = .xportWait → s.answer = none → exec (.read addr size) s = .next s) ∧
    (∀ a, s.phase = .xportWait → s.answer = some a →
      ∃ m : Memory Byte, exec (.read addr size) s = .next { s with
          buf := m, result := BitVec.ofNat 32 (min size a.bytes.length), phase := .ready, lastEdge := a.lastEdge,
          q := s.q.drop (min a.consumed s.q.length), answer := none,
          trace := s.trace ++ [.call (.transportRead addr size (a.bytes.take size)),
            .done .read (some (BitVec.ofNat 32 (min size a.bytes.length)))] } ∧
        (BitVec.ofNat 32 (min size a.bytes.length)).toNat = min size a.bytes.length ∧
        (∀ k, k < min size a.bytes.length → m.read (addr + k) = a.bytes[k]?) ∧
        (∀ b, b < addr ∨ addr + min size a.bytes.length ≤ b → m.read b = s.buf.read b))

/-- The frame of `read` (R105, R179): `CAND` never changes, and of `BUF` only the bytes the transport step stores, from
`addr` on. -/
def Obligations.ReadFrame : Prop :=
  ∀ (addr size : Nat) (s t : State), exec (.read addr size) s = .next t →
    t.frameState = s.frameState ∧ t.savedTpb = s.savedTpb ∧ t.raw = s.raw ∧ t.drainLeft = s.drainLeft ∧
    t.cmd = s.cmd ∧ t.tpb = s.tpb ∧ t.par = s.par ∧ (∀ a, t.cand.read a = s.cand.read a) ∧
    t.queueOverflow = s.queueOverflow ∧ t.program = s.program ∧
    t.nextPrograms = s.nextPrograms ∧ t.runEnded = s.runEnded ∧ t.moves = s.moves ∧ t.drawn = s.drawn ∧
    (t.phase ≠ .halted → t.cause = s.cause ∧ t.faultCmd = s.faultCmd) ∧
    (∀ a, s.phase = .xportWait → s.answer = some a →
      ∀ b, b < addr ∨ addr + (received a size).length ≤ b → t.buf.read b = s.buf.read b) ∧
    (s.phase ≠ .xportWait ∨ s.answer = none → (∀ b, t.buf.read b = s.buf.read b) ∧ t.q = s.q ∧
      t.lastEdge = s.lastEdge ∧ t.result = s.result ∧ t.answer = s.answer)

/-- `write` (R104, R106): issued in `InFrame` with its range in `BUF` it waits for the transport; the bytes `BUF[addr]` on
are handed over, those nobody wrote as the free content of their addresses (log 6), and `RESULT` is the count accepted,
at most `size`. -/
def Obligations.WriteAnswersAcceptedCount : Prop :=
  ∀ (addr size : Nat) (s : State), addr + size ≤ 65536 →
    (s.phase = .ready → s.frameState = .inFrame → exec (.write addr size) s = .next { s with phase := .xportWait }) ∧
    (s.phase = .xportWait → s.answer = none → exec (.write addr size) s = .next s) ∧
    (∀ a, s.phase = .xportWait → s.answer = some a →
      ∃ bytes : List Byte, exec (.write addr size) s = .next { s with
          result := BitVec.ofNat 32 (min a.count size), phase := .ready, lastEdge := a.lastEdge,
          q := s.q.drop (min a.consumed s.q.length), answer := none,
          trace := s.trace ++ [.call (.transportWrite bytes size (min a.count size)),
            .done .write (some (BitVec.ofNat 32 (min a.count size)))] } ∧
        (BitVec.ofNat 32 (min a.count size)).toNat = min a.count size ∧
        bytes.length = size ∧
        ∀ k, k < size → bytes[k]? = some ((s.buf.read (addr + k)).getD (Config.bufContent (addr + k))))

/-- A `write` over a byte nobody wrote goes on (R106; its content is any value, log 6): it completes as it does when the
host has written any value `v` there, and the two runs differ in that one byte handed over and in nothing else. -/
def Obligations.WriteGoesOnOverUnwrittenByte : Prop :=
  ∀ (addr size k : Nat) (s : State) (a : Answer) (v : Byte),
    s.phase = .xportWait → s.answer = some a → addr + size ≤ 65536 → k < size → s.buf.read (addr + k) = none →
    ∃ (t u : State) (bytes : List Byte) (done : Event),
      exec (.write addr size) s = .next t ∧
      exec (.write addr size) { s with buf := s.buf.write (addr + k) v } = .next u ∧
      { t with buf := [], trace := [] } = { u with buf := [], trace := [] } ∧
      bytes[k]? = some (Config.bufContent (addr + k)) ∧
      t.trace = s.trace ++ [.call (.transportWrite bytes size (min a.count size)), done] ∧
      u.trace = s.trace ++ [.call (.transportWrite (bytes.set k v) size (min a.count size)), done]

/-- The frame of `write` (R106, R179): no memory changes. -/
def Obligations.WriteFrame : Prop :=
  ∀ (addr size : Nat) (s t : State), exec (.write addr size) s = .next t →
    t.frameState = s.frameState ∧ t.savedTpb = s.savedTpb ∧ t.raw = s.raw ∧ t.drainLeft = s.drainLeft ∧
    t.cmd = s.cmd ∧ t.tpb = s.tpb ∧ t.par = s.par ∧ (∀ a, t.cand.read a = s.cand.read a) ∧
    (∀ a, t.buf.read a = s.buf.read a) ∧ t.queueOverflow = s.queueOverflow ∧ t.program = s.program ∧
    t.nextPrograms = s.nextPrograms ∧ t.runEnded = s.runEnded ∧ t.moves = s.moves ∧
    t.drawn = s.drawn ∧ (t.phase ≠ .halted → t.cause = s.cause ∧ t.faultCmd = s.faultCmd) ∧
    (s.phase ≠ .xportWait ∨ s.answer = none → t.q = s.q ∧ t.lastEdge = s.lastEdge ∧ t.result = s.result ∧
      t.answer = s.answer)

/-- What is written to consecutive units is read back (R59, R61), in order, and no unit outside them changes. -/
def Obligations.RangeReadsBack : Prop :=
  (∀ (m : Memory Byte) (addr : Nat) (bytes : List Byte),
    (m.writeRange addr bytes).readRange Config.bufContent addr bytes.length = bytes) ∧
  (∀ (m : Memory Byte) (addr : Nat) (bytes : List Byte) (b : Nat), b < addr ∨ addr + bytes.length ≤ b →
    (m.writeRange addr bytes).read b = m.read b)

/-! ## setAutoBaud (spec/42_autobaud.md) -/

/-- The issue and detect steps (R142, R143, R144): issued in `InFrame` with a list within `CAND`, `TPB` is saved and
overridden; the command holds until the transport answers; 0 restores `TPB` and ends with 0; any other answer starts the
drain of three. -/
def Obligations.AutobaudIssueAndDetect : Prop :=
  ∀ (base n : Nat) (s : State),
    (s.phase = .ready → s.frameState = .inFrame → n ≠ 0 → base + n ≤ 65536 →
      exec (.setAutoBaud base n) s = .next { s with
        savedTpb := s.tpb, tpb := s.par.tpbRef, phase := .abDetect, trace := s.trace ++ [.setTpb s.par.tpbRef] }) ∧
    (s.phase = .abDetect → s.answer = none → exec (.setAutoBaud base n) s = .next s) ∧
    (∀ a, s.phase = .abDetect → s.answer = some a → a.raw = 0 →
      exec (.setAutoBaud base n) s = .next { s with
        raw := 0, tpb := s.savedTpb, result := 0, phase := .ready, lastEdge := a.lastEdge,
        q := s.q.drop (min a.consumed s.q.length), answer := none,
        trace := s.trace ++
          [.call (.detectRawBaud 0), .setTpb s.savedTpb, .done .setAutoBaud (some 0)] }) ∧
    (∀ a, s.phase = .abDetect → s.answer = some a → a.raw ≠ 0 →
      exec (.setAutoBaud base n) s = .next { s with
        raw := a.raw, drainLeft := 3, phase := .abDrain, lastEdge := a.lastEdge,
        q := s.q.drop (min a.consumed s.q.length), answer := none,
        trace := s.trace ++ [.call (.detectRawBaud a.raw)] })

/-- The drain step (R142, R146, R147): it pops one event into `LAST_EDGE` and counts down, to the selection at 0; with
`Q` empty it is not enabled. -/
def Obligations.AutobaudDrain : Prop :=
  ∀ (base n : Nat) (s : State), s.phase = .abDrain →
    (s.q = [] → exec (.setAutoBaud base n) s = .next s) ∧
    (∀ e rest, s.q = e :: rest → s.drainLeft = 1 →
      exec (.setAutoBaud base n) s = .next { s with
        q := rest, lastEdge := e, drainLeft := 0, phase := .abSelect, trace := s.trace ++ [.pop e] }) ∧
    (∀ e rest, s.q = e :: rest → s.drainLeft ≠ 1 →
      exec (.setAutoBaud base n) s = .next { s with
        q := rest, lastEdge := e, drainLeft := s.drainLeft - 1, trace := s.trace ++ [.pop e] })

/-- The select step (R142, R150, R151, R152) over a list of candidates within `CAND`, whoever wrote them: a nearest
candidate is selected; above 20000 `TPB` is restored and the result is 0; 0 faults with cause 7 and `TPB` as it
stands; anything else is committed and is the result. -/
def Obligations.AutobaudSelect : Prop :=
  ∀ (base : Nat) (candidates : List Baud) (s : State), s.phase = .abSelect → candidates ≠ [] →
    base + candidates.length ≤ 65536 → s.CandIs base candidates →
    ∃ sel, nearestCandidate s.raw candidates = some sel ∧ sel ∈ candidates ∧
      (20000 < sel.toNat → exec (.setAutoBaud base candidates.length) s = .next { s with
        tpb := s.savedTpb, result := 0, phase := .ready,
        trace := s.trace ++ [.setTpb s.savedTpb, .done .setAutoBaud (some 0)] }) ∧
      (sel = 0 → exec (.setAutoBaud base candidates.length) s = .next { s with
        cause := 7, faultCmd := s.cmd, phase := .halted, trace := s.trace ++ [.fault 7 s.cmd] }) ∧
      (1 ≤ sel.toNat → sel.toNat ≤ 20000 → exec (.setAutoBaud base candidates.length) s = .next { s with
        tpb := BitVec.ofNat 32 ((s.par.tps + sel.toNat / 2) / sel.toNat), result := sel, phase := .ready,
        trace := s.trace ++ [.setTpb (BitVec.ofNat 32 ((s.par.tps + sel.toNat / 2) / sel.toNat)),
          .done .setAutoBaud (some sel)] })

/-- A selection over a word of `CAND` nobody wrote goes on (R142; its content is any value, log 6): the command ends, and
as it does when the host has written that content there. -/
def Obligations.AutobaudGoesOnOverUnwrittenCandidate : Prop :=
  ∀ (base n k : Nat) (s : State),
    s.phase = .abSelect → base + n ≤ 65536 → k < n → s.cand.read (base + k) = none →
    ∃ t u : State, exec (.setAutoBaud base n) s = .next t ∧
      exec (.setAutoBaud base n) { s with cand := s.cand.write (base + k) (Config.candContent (base + k)) } = .next u ∧
      { t with cand := [] } = { u with cand := [] } ∧ t.cand = s.cand ∧ (t.phase = .ready ∨ t.phase = .halted)

/-- The selection (R148, R149): the selected candidate is the first in the list at the smallest absolute difference from
the detected value, for every list that is not empty, in any order, with duplicates or not. -/
def Obligations.SelectionIsFirstMinimum : Prop :=
  ∀ (raw : Baud) (candidates : List Baud), candidates ≠ [] →
    ∃ (i : Nat) (sel : Baud), nearestCandidate raw candidates = some sel ∧ candidates[i]? = some sel ∧
      (∀ (j : Nat) (c : Baud), candidates[j]? = some c →
        ((sel.toNat : Int) - raw.toNat).natAbs ≤ ((c.toNat : Int) - raw.toNat).natAbs) ∧
      (∀ (j : Nat) (c : Baud), j < i → candidates[j]? = some c →
        ((sel.toNat : Int) - raw.toNat).natAbs < ((c.toNat : Int) - raw.toNat).natAbs)

/-- Which raw values select 9600 from 4800, 9600, 19200 (R154 (a), spec/90_conflicts.md C9). -/
def Obligations.RawValuesSelecting9600 : Prop :=
  ∀ raw : Baud, nearestCandidate raw [4800, 9600, 19200] = some 9600 ↔ 7200 < raw.toNat ∧ raw.toNat ≤ 14400

/-- The committed ticks-per-bit (R151): `TPS / sel` rounded to the nearest integer, an exact half up, for every `sel` from
1; for `sel` up to 20000 and a legal `TPS` the store does not truncate; it is 0 exactly when `TPS < ceil(sel / 2)`. -/
def Obligations.CommitRoundsHalfUp : Prop :=
  (∀ tps sel : Nat, 1 ≤ sel →
    2 * (roundedTicks tps sel * sel) ≤ 2 * tps + sel ∧ 2 * tps + sel < 2 * (roundedTicks tps sel * sel) + 2 * sel ∧
    (roundedTicks tps sel = 0 ↔ tps < (sel + 1) / 2)) ∧
  (∀ (p : Params) (sel : Baud), p.Legal → 1 ≤ sel.toNat → sel.toNat ≤ 20000 →
    (committedTicks p sel).toNat = (p.tps + sel.toNat / 2) / sel.toNat ∧
    (committedTicks p sel).toNat ≤ p.tps + 10000)

/-- Detection failure (R144): a `setAutoBaud` whose primitive answers 0 ends with 0 and `TPB` exactly as before; the block
has drained nothing, what the primitive removed from `Q` is gone and the rest stays. -/
def Obligations.DetectionFailureRestoresTpb : Prop :=
  ∀ (s : State) (w : CmdWord) (later : List CmdWord) (base n : Nat) (a : Answer) (rest : List Move),
    s.phase = .ready → s.frameState = .inFrame → decode w = .ok (.setAutoBaud base n) → n ≠ 0 →
    base + n ≤ 65536 → a.raw = 0 → s.program = w :: later → s.moves = .host .issue :: .transport a :: rest →
    core.run 2 s = .next { s with
      moves := rest, program := later, cmd := w, savedTpb := s.tpb, tpb := s.tpb, raw := 0, result := 0, phase := .ready,
      lastEdge := a.lastEdge, q := s.q.drop (min a.consumed s.q.length), answer := none,
      trace := s.trace ++ [.issue w, .setTpb s.par.tpbRef, .call (.detectRawBaud 0), .setTpb s.tpb,
        .done .setAutoBaud (some 0)] }

/-- The paths of a whole `setAutoBaud` that gets past detection with three events to drain (R142, R153): the nearest
candidate decides. Above 20000: result 0, `TPB` as before the command. 0: halted with cause 7 and `TPB = TPB_REF`.
Otherwise the candidate is the result and its rounded ticks are committed. Three events are drained in each case, the
last of them in `LAST_EDGE`, and the frame state stays `InFrame`. -/
def Obligations.AutobaudWholeCommand : Prop :=
  ∀ (s : State) (w : CmdWord) (base : Nat) (candidates : List Baud) (a : Answer) (e1 e2 e3 : EventWord)
    (events : List EventWord) (later : List CmdWord) (rest : List Move) (sel : Baud),
    s.phase = .ready → s.frameState = .inFrame → decode w = .ok (.setAutoBaud base candidates.length) →
    candidates ≠ [] → base + candidates.length ≤ 65536 → s.CandIs base candidates → a.raw ≠ 0 →
    s.q.drop a.consumed = e1 :: e2 :: e3 :: events → s.program = w :: later →
    s.moves = .host .issue :: .transport a :: .block :: .block :: .block :: .block :: rest →
    nearestCandidate a.raw candidates = some sel →
    ∃ t, core.run 6 s = .next t ∧ t.frameState = .inFrame ∧ t.q = events ∧ t.lastEdge = e3 ∧ t.drainLeft = 0 ∧
      t.raw = a.raw ∧ t.savedTpb = s.tpb ∧ t.cmd = w ∧ t.program = later ∧ t.moves = rest ∧ t.cand = s.cand ∧ t.buf = s.buf ∧
      (20000 < sel.toNat → t.result = 0 ∧ t.tpb = s.tpb ∧ t.phase = .ready) ∧
      (sel = 0 → t.result = s.result ∧ t.tpb = s.par.tpbRef ∧ t.phase = .halted ∧ t.cause = 7 ∧ t.faultCmd = w) ∧
      (1 ≤ sel.toNat → sel.toNat ≤ 20000 → t.result = sel ∧ t.phase = .ready ∧
        t.tpb = BitVec.ofNat 32 ((s.par.tps + sel.toNat / 2) / sel.toNat))

/-- The drain can hang (R146, R198): in `AB_DRAIN` with `Q` empty, however often the block is given its turn, nothing
changes; it is neither a fault nor an end. -/
def Obligations.DrainWaitsForEver : Prop :=
  ∀ (k : Nat) (s : State) (base n : Nat) (rest : List Move),
    s.phase = .abDrain → s.q = [] → decode s.cmd = .ok (.setAutoBaud base n) →
    s.moves = List.replicate k .block ++ rest → core.run k s = .next { s with moves := rest }

/-- The drained events are not examined (R146): two states that differ only in the words of three drained events reach,
through drain and selection, the same state but for `LAST_EDGE` and the trace; or both stop. -/
def Obligations.DrainedEventsHaveNoInfluence : Prop :=
  ∀ (s : State) (base n : Nat) (e1 e2 e3 f1 f2 f3 : EventWord) (later : List EventWord) (rest : List Move),
    s.phase = .abDrain → s.drainLeft = 3 → decode s.cmd = .ok (.setAutoBaud base n) →
    s.moves = .block :: .block :: .block :: .block :: rest →
    (∃ t u, core.run 4 { s with q := e1 :: e2 :: e3 :: later } = .next t ∧
      core.run 4 { s with q := f1 :: f2 :: f3 :: later } = .next u ∧
      { t with lastEdge := 0, trace := [] } = { u with lastEdge := 0, trace := [] }) ∨
    (∃ f, core.run 4 { s with q := e1 :: e2 :: e3 :: later } = .fault f ∧
      core.run 4 { s with q := f1 :: f2 :: f3 :: later } = .fault f)

/-- The frame of `setAutoBaud` (R141, R142): the frame state and both operand memories are never written; each register
only in the micro-step R142 writes it in. -/
def Obligations.AutobaudFrame : Prop :=
  ∀ (base n : Nat) (s t : State), exec (.setAutoBaud base n) s = .next t →
    t.frameState = s.frameState ∧ t.cmd = s.cmd ∧ t.par = s.par ∧ (∀ a, t.cand.read a = s.cand.read a) ∧
    (∀ a, t.buf.read a = s.buf.read a) ∧ t.queueOverflow = s.queueOverflow ∧ t.program = s.program ∧
    t.nextPrograms = s.nextPrograms ∧ t.runEnded = s.runEnded ∧ t.moves = s.moves ∧
    t.drawn = s.drawn ∧
    (t.phase ≠ .halted → t.cause = s.cause ∧ t.faultCmd = s.faultCmd) ∧
    (s.phase ≠ .ready → t.savedTpb = s.savedTpb) ∧
    (s.phase ≠ .abDetect → t.raw = s.raw ∧ t.answer = s.answer) ∧
    (s.phase ≠ .abDetect → s.phase ≠ .abDrain →
      t.drainLeft = s.drainLeft ∧ t.q = s.q ∧ t.lastEdge = s.lastEdge) ∧
    (s.phase ≠ .abDetect → s.phase ≠ .abSelect → t.result = s.result) ∧
    (s.phase = .abDrain ∨ t.phase = .halted → t.tpb = s.tpb)

/-! ## Rules of the whole machine -/

/-- `FRAME_STATE` is written only by `sendBreak`, by `checkBreak` on success, by `endFrame` (R20, R100) and by reset: a
step that changes it records one of these last. -/
def Obligations.FrameStateWriters : Prop :=
  ∀ s t : State, step s = .next t → t.frameState ≠ s.frameState →
    (t.frameState = .inFrame ∧ (t.trace.getLast? = some (.done .sendBreak none) ∨
      t.trace.getLast? = some (.done .checkBreak (some 1)))) ∨
    (t.frameState = .idle ∧ (t.trace.getLast? = some (.done .endFrame none) ∨ t.trace.getLast? = some .reset))

/-- `TPB` is written only by `setAutoBaud`, by the host in `READY`, and by reset (R32, R171): a step that changes it
records `SetTPB` of the new value, or is reset; and `setAutoBaud` writes it only in its issue, detect and select steps. -/
def Obligations.TpbWriters : Prop :=
  ∀ s t : State, step s = .next t → t.tpb ≠ s.tpb →
    s.nextMove.1 = .reset ∨
    ((∃ added, t.trace = s.trace ++ added ∧ .setTpb t.tpb ∈ added) ∧
      (s.phase = .ready ∨ s.phase = .abDetect ∨ s.phase = .abSelect))

/-- `CAND` changes only by the host's writes in `READY` (R58); `BUF` only by those and by the transport step of `read`
(R60, R61). -/
def Obligations.OperandMemoryWriters : Prop :=
  ∀ s t : State, step s = .next t →
    (t.cand ≠ s.cand → s.phase = .ready ∧ ∃ addr v, s.nextMove.1 = .host (.writeCand addr v)) ∧
    (t.buf ≠ s.buf → (s.phase = .ready ∧ ∃ addr v, s.nextMove.1 = .host (.writeBuf addr v)) ∨
      (s.phase = .xportWait ∧ ∃ addr size, decode s.cmd = .ok (.read addr size)))

/-- The parameters are constants of a run (R35), the producer's fault is kept (R57), and the trace only grows (R12). That
R57's "kept for the rest of the run" holds over a reset step too is the model's choice (log 10, DESIGN CHOICE). -/
def Obligations.ConstantsAndHistory : Prop :=
  ∀ s t : State, step s = .next t →
    t.par = s.par ∧ (s.queueOverflow = true → t.queueOverflow = true) ∧ ∃ added, t.trace = s.trace ++ added

/-- The host's program is issued in order, one word in `READY` at a time (R92): a step that changes what is left of it is
the issue of its first word, which it records and latches in `CMD`, or a reset, which abandons it (that the host then
starts the next of its lists is log 2). -/
def Obligations.ProgramIsIssuedInOrder : Prop :=
  ∀ s t : State, step s = .next t →
    (t.program ≠ s.program → s.nextMove.1 = .reset ∨
      ∃ w added, s.nextMove.1 = .host .issue ∧ s.phase = .ready ∧ s.program = w :: t.program ∧ t.cmd = w ∧
        t.trace = s.trace ++ .issue w :: added ∧ ∀ w', Event.issue w' ∉ added) ∧
    (∀ w added, t.trace = s.trace ++ .issue w :: added → s.phase = .ready ∧ s.program = w :: t.program) ∧
    (s.nextMove.1 ≠ .reset → t.nextPrograms = s.nextPrograms)

/-- The end of a run, as the model reads R13 (log 18, DEDUCED): it is over when `PHASE` is `READY`, the program has no word
left and its last command has completed, which the trace shows by that command's `Done` since the latest reset, or
`runEnded` for a run that was over before it. A halted or holding state never is the end. A step makes a run over only
with the `Done` of a command. A run that is over stays over, but for a reset; and after a reset a run is over only where
it was over before and the host has no list left to start (log 2): a reset that abandons the last command, or leaves
words of the program unissued, does not end it. -/
def Obligations.RunEndsWithItsLastCommand : Prop :=
  (∀ s : State, s.runOver = true ↔
    s.phase = .ready ∧ s.program = [] ∧ (s.lastCommandDone = true ∨ s.runEnded = true)) ∧
  (∀ s : State, s.phase = .halted ∨ s.Holds → s.runOver = false) ∧
  (∀ s t : State, s.runOver = false → t.runOver = true → step s = .next t →
    ∃ op v, t.trace.getLast? = some (.done op v)) ∧
  (∀ s t : State, s.runOver = true → s.nextMove.1 ≠ .reset → step s = .next t → t.runOver = true) ∧
  (∀ s t : State, s.nextMove.1 = .reset → step s = .next t →
    (t.runOver = true ↔ s.runOver = true ∧ s.nextPrograms = []))

/-- `RESULT` changes only when a command ends with a value, which the step records last (R25, R29), or by reset. -/
def Obligations.ResultWriters : Prop :=
  ∀ s t : State, step s = .next t → t.result ≠ s.result →
    (t.phase = .ready ∧ ∃ op, (op = .checkBreak ∨ op = .setAutoBaud ∨ op = .read ∨ op = .write) ∧
      t.trace.getLast? = some (.done op (some t.result))) ∨ t.trace.getLast? = some .reset

/-- The conversions between microseconds and ticks (R172), at one tick a microsecond or more: there and back loses at
most one microsecond and gains none. -/
def Obligations.TickConversions : Prop :=
  ∀ (p : Params) (u : Nat),
    microsecondsToTicks p u = u * p.tps / 1000000 ∧
    (1000000 ≤ p.tps → ticksToMicroseconds p (microsecondsToTicks p u) ≤ u ∧
      u ≤ ticksToMicroseconds p (microsecondsToTicks p u) + 1)
end

