-- ==== Sys2Proof/Laws/Memory.lean ====
section
/-! SUPPORT. The laws of the operand memories: a read after a write, ranges, and that every write keeps the canonical
form. -/

namespace Sys2Proof.Machine

variable {α : Type}

@[simp] theorem Memory.read_nil (a : Nat) : Memory.read ([] : Memory α) a = none := rfl

/-- A read after a write: the written address gives the value, every other address reads as before. -/
theorem Memory.read_write (m : Memory α) (a b : Nat) (v : α) :
    (m.write a v).read b = if b = a then some v else m.read b := by
  induction m with
  | nil => simp [Memory.write, Memory.read]
  | cons c m ih =>
    obtain ⟨c, w⟩ := c
    simp only [Memory.write]
    split
    · simp [Memory.read]
    · split
      · subst_vars
        simp only [Memory.read]
        split <;> rfl
      · simp only [Memory.read, ih]
        split <;> split <;> simp_all

@[simp] theorem Memory.read_write_same (m : Memory α) (a : Nat) (v : α) : (m.write a v).read a = some v := by
  simp [Memory.read_write]

theorem Memory.read_write_other (m : Memory α) {a b : Nat} (v : α) (h : b ≠ a) : (m.write a v).read b = m.read b := by
  simp [Memory.read_write, h]

/-- An address of a written memory is the written one or was listed before. -/
theorem Memory.mem_write {m : Memory α} {a : Nat} {v : α} {c : Nat × α} (h : c ∈ m.write a v) : c.1 = a ∨ c ∈ m := by
  induction m with
  | nil => simp_all [Memory.write]
  | cons d m ih =>
    obtain ⟨d, w⟩ := d
    simp only [Memory.write] at h
    split at h
    · rcases List.mem_cons.1 h with rfl | h
      · exact .inl rfl
      · exact .inr h
    · split at h
      · rcases List.mem_cons.1 h with rfl | h
        · exact .inl rfl
        · exact .inr (List.mem_cons_of_mem _ h)
      · rcases List.mem_cons.1 h with rfl | h
        · exact .inr (List.mem_cons_self ..)
        · exact (ih h).imp id (List.mem_cons_of_mem _)

theorem Memory.wf_cons {size a : Nat} {v : α} {m : Memory α} :
    Memory.wf size ((a, v) :: m) = true ↔ a < size ∧ (∀ c ∈ m, a < c.1) ∧ m.wf size = true := by
  simp [Memory.wf, and_assoc]

/-- A write within the space keeps the canonical form. -/
theorem Memory.write_wf {size a : Nat} {v : α} {m : Memory α} (ha : a < size) (h : m.wf size = true) :
    (m.write a v).wf size = true := by
  induction m with
  | nil => simp [Memory.write, Memory.wf, ha]
  | cons c m ih =>
    obtain ⟨c, w⟩ := c
    obtain ⟨hc, hlt, hm⟩ := Memory.wf_cons.1 h
    simp only [Memory.write]
    split
    · rename_i hac
      refine Memory.wf_cons.2 ⟨ha, ?_, h⟩
      intro d hd
      rcases List.mem_cons.1 hd with rfl | hd
      · exact hac
      · exact Nat.lt_trans hac (hlt d hd)
    · split
      · rename_i hac; subst hac
        exact Memory.wf_cons.2 ⟨ha, hlt, hm⟩
      · refine Memory.wf_cons.2 ⟨hc, ?_, ih hm⟩
        intro d hd
        rcases Memory.mem_write hd with hd | hd
        · omega
        · exact hlt d hd

/-- A write of consecutive units within the space keeps the canonical form. -/
theorem Memory.writeRange_wf {size : Nat} (vs : List α) : ∀ {addr : Nat} {m : Memory α},
    addr + vs.length ≤ size → m.wf size = true → (m.writeRange addr vs).wf size = true := by
  induction vs with
  | nil => intro _ _ _ h; exact h
  | cons v vs ih =>
    intro addr m hr h
    simp only [List.length_cons] at hr
    exact ih (by omega) (Memory.write_wf (by omega) h)

/-! ## Content: what was written, else the free content -/

/-- The content of a unit that was written. -/
theorem Memory.content_of_read {free : Nat → α} {m : Memory α} {a : Nat} {v : α} (h : m.read a = some v) :
    m.content free a = v := by
  simp [Memory.content, h]

/-- The content of a unit nobody wrote. -/
theorem Memory.content_of_unwritten {free : Nat → α} {m : Memory α} {a : Nat} (h : m.read a = none) :
    m.content free a = free a := by
  simp [Memory.content, h]

/-- The content after a write: the written address holds the value, every other address what it held. -/
theorem Memory.content_write (free : Nat → α) (m : Memory α) (a b : Nat) (v : α) :
    (m.write a v).content free b = if b = a then v else m.content free b := by
  simp only [Memory.content, Memory.read_write]
  split <;> rfl

/-- How many units a read of consecutive units gives. -/
@[simp] theorem Memory.readRange_length (free : Nat → α) (m : Memory α) (n : Nat) : ∀ addr : Nat,
    (m.readRange free addr n).length = n := by
  induction n with
  | zero => intro _; rfl
  | succ n ih => intro addr; simp [Memory.readRange, ih]

/-- Which units a read of consecutive units gives: the contents, in ascending order of address. -/
theorem Memory.readRange_getElem? (free : Nat → α) (m : Memory α) {n : Nat} : ∀ {addr k : Nat}, k < n →
    (m.readRange free addr n)[k]? = some (m.content free (addr + k)) := by
  induction n with
  | zero => intro _ _ h; omega
  | succ n ih =>
    intro addr k h
    cases k with
    | zero => simp [Memory.readRange]
    | succ k =>
      simp only [Memory.readRange, List.getElem?_cons_succ]
      rw [ih (by omega)]
      congr 2
      omega

/-- Two memories with the same contents over a range give the same read of it. -/
theorem Memory.readRange_congr (free : Nat → α) {m m' : Memory α} {addr n : Nat}
    (h : ∀ k, k < n → m.content free (addr + k) = m'.content free (addr + k)) :
    m.readRange free addr n = m'.readRange free addr n := by
  apply List.ext_getElem?
  intro k
  by_cases hk : k < n
  · rw [Memory.readRange_getElem? free m hk, Memory.readRange_getElem? free m' hk, h k hk]
  · simp [Nat.not_lt.1 hk]

end Sys2Proof.Machine
end

