-- ==== Sys2Proof/Laws/PerInstr.lean ====
section
/-! SUPPORT. What holds of every command as syntax, one lemma per constructor: its word spells the row of the opcode table
of its operation (spec/30_encoding.md R87), whatever its operands. -/

namespace Sys2Proof.Laws.TableRow

/-- The word of the command matches the row of its operation (R87): `encode i and mask = match`. -/
def Statement (i : Instr) : Prop :=
  ∃ r ∈ opcodeTable, r.op = i.op ∧ r.spelledBy (encode i) = true

/-- A word of formats C and M under the mask of its opcode: the operand fields are cleared. -/
theorem mask_operands (opcode : BitVec 4) (mid : BitVec 12) (lo : BitVec 16) :
    (opcode ++ mid ++ lo : BitVec 32) &&& 0xF0000000#32 = (opcode &&& 15#4) ++ 0#12 ++ 0#16 := by
  have e : (0xF0000000#32 : BitVec 32) = 15#4 ++ 0#12 ++ 0#16 := by decide
  rw [e, BitVec.and_append, BitVec.and_append, BitVec.and_zero, BitVec.and_zero]

/-- A word of format B under the mask of its opcode and its must-be-zero field. -/
theorem mask_counts (opcode : BitVec 4) (zeros : BitVec 12) (b d : BitVec 8) :
    (opcode ++ zeros ++ b ++ d : BitVec 32) &&& 0xFFFF0000#32 =
      (opcode &&& 15#4) ++ (zeros &&& 4095#12) ++ 0#8 ++ 0#8 := by
  have e : (0xFFFF0000#32 : BitVec 32) = 15#4 ++ 4095#12 ++ 0#8 ++ 0#8 := by decide
  rw [e, BitVec.and_append, BitVec.and_append, BitVec.and_append, BitVec.and_zero, BitVec.and_zero]

theorem sendBreak (breakBits delimiterBits : Nat) : Statement (.sendBreak breakBits delimiterBits) := by
  refine ⟨⟨.sendBreak, 0x10000000, 0xFFFF0000⟩, by decide, rfl, beq_iff_eq.2 ?_⟩
  exact (mask_counts 1#4 0#12 (BitVec.ofNat 8 breakBits) (BitVec.ofNat 8 delimiterBits)).trans (by decide)

theorem checkBreak : Statement .checkBreak :=
  ⟨⟨.checkBreak, 0x20000000, 0xFFFFFFFF⟩, by decide, rfl, by decide⟩

theorem setAutoBaud (base n : Nat) : Statement (.setAutoBaud base n) := by
  refine ⟨⟨.setAutoBaud, 0x30000000, 0xF0000000⟩, by decide, rfl, beq_iff_eq.2 ?_⟩
  exact (mask_operands 3#4 (BitVec.ofNat 12 n) (BitVec.ofNat 16 base)).trans (by decide)

theorem endFrame : Statement .endFrame :=
  ⟨⟨.endFrame, 0x40000000, 0xFFFFFFFF⟩, by decide, rfl, by decide⟩

theorem read (addr size : Nat) : Statement (.read addr size) := by
  refine ⟨⟨.read, 0x50000000, 0xF0000000⟩, by decide, rfl, beq_iff_eq.2 ?_⟩
  exact (mask_operands 5#4 (BitVec.ofNat 12 size) (BitVec.ofNat 16 addr)).trans (by decide)

theorem write (addr size : Nat) : Statement (.write addr size) := by
  refine ⟨⟨.write, 0x60000000, 0xF0000000⟩, by decide, rfl, beq_iff_eq.2 ?_⟩
  exact (mask_operands 6#4 (BitVec.ofNat 12 size) (BitVec.ofNat 16 addr)).trans (by decide)

end Sys2Proof.Laws.TableRow
end

