-- ==== Sys2Proof/Laws/State.lean ====
section
/-! SUPPORT. What each update of the state leaves in each field, one lemma per field per update, so that no later proof
unfolds a record update. -/

namespace Sys2Proof.Machine

/-! ## `State.record` -/

@[simp] theorem State.record_frameState (e : Event) (s : State) : (s.record e).frameState = s.frameState := rfl
@[simp] theorem State.record_lastEdge (e : Event) (s : State) : (s.record e).lastEdge = s.lastEdge := rfl
@[simp] theorem State.record_savedTpb (e : Event) (s : State) : (s.record e).savedTpb = s.savedTpb := rfl
@[simp] theorem State.record_raw (e : Event) (s : State) : (s.record e).raw = s.raw := rfl
@[simp] theorem State.record_drainLeft (e : Event) (s : State) : (s.record e).drainLeft = s.drainLeft := rfl
@[simp] theorem State.record_result (e : Event) (s : State) : (s.record e).result = s.result := rfl
@[simp] theorem State.record_cmd (e : Event) (s : State) : (s.record e).cmd = s.cmd := rfl
@[simp] theorem State.record_phase (e : Event) (s : State) : (s.record e).phase = s.phase := rfl
@[simp] theorem State.record_cause (e : Event) (s : State) : (s.record e).cause = s.cause := rfl
@[simp] theorem State.record_faultCmd (e : Event) (s : State) : (s.record e).faultCmd = s.faultCmd := rfl
@[simp] theorem State.record_tpb (e : Event) (s : State) : (s.record e).tpb = s.tpb := rfl
@[simp] theorem State.record_par (e : Event) (s : State) : (s.record e).par = s.par := rfl
@[simp] theorem State.record_q (e : Event) (s : State) : (s.record e).q = s.q := rfl
@[simp] theorem State.record_cand (e : Event) (s : State) : (s.record e).cand = s.cand := rfl
@[simp] theorem State.record_buf (e : Event) (s : State) : (s.record e).buf = s.buf := rfl
@[simp] theorem State.record_queueOverflow (e : Event) (s : State) : (s.record e).queueOverflow = s.queueOverflow := rfl
@[simp] theorem State.record_trace (e : Event) (s : State) : (s.record e).trace = s.trace ++ [e] := rfl
@[simp] theorem State.record_program (e : Event) (s : State) : (s.record e).program = s.program := rfl
@[simp] theorem State.record_nextPrograms (e : Event) (s : State) : (s.record e).nextPrograms = s.nextPrograms := rfl
@[simp] theorem State.record_runEnded (e : Event) (s : State) : (s.record e).runEnded = s.runEnded := rfl
@[simp] theorem State.record_answer (e : Event) (s : State) : (s.record e).answer = s.answer := rfl
@[simp] theorem State.record_moves (e : Event) (s : State) : (s.record e).moves = s.moves := rfl
@[simp] theorem State.record_drawn (e : Event) (s : State) : (s.record e).drawn = s.drawn := rfl

/-! ## `State.goPhase` -/

@[simp] theorem State.goPhase_frameState (p : Phase) (s : State) : (s.goPhase p).frameState = s.frameState := rfl
@[simp] theorem State.goPhase_lastEdge (p : Phase) (s : State) : (s.goPhase p).lastEdge = s.lastEdge := rfl
@[simp] theorem State.goPhase_savedTpb (p : Phase) (s : State) : (s.goPhase p).savedTpb = s.savedTpb := rfl
@[simp] theorem State.goPhase_raw (p : Phase) (s : State) : (s.goPhase p).raw = s.raw := rfl
@[simp] theorem State.goPhase_drainLeft (p : Phase) (s : State) : (s.goPhase p).drainLeft = s.drainLeft := rfl
@[simp] theorem State.goPhase_result (p : Phase) (s : State) : (s.goPhase p).result = s.result := rfl
@[simp] theorem State.goPhase_cmd (p : Phase) (s : State) : (s.goPhase p).cmd = s.cmd := rfl
@[simp] theorem State.goPhase_phase (p : Phase) (s : State) : (s.goPhase p).phase = p := rfl
@[simp] theorem State.goPhase_cause (p : Phase) (s : State) : (s.goPhase p).cause = s.cause := rfl
@[simp] theorem State.goPhase_faultCmd (p : Phase) (s : State) : (s.goPhase p).faultCmd = s.faultCmd := rfl
@[simp] theorem State.goPhase_tpb (p : Phase) (s : State) : (s.goPhase p).tpb = s.tpb := rfl
@[simp] theorem State.goPhase_par (p : Phase) (s : State) : (s.goPhase p).par = s.par := rfl
@[simp] theorem State.goPhase_q (p : Phase) (s : State) : (s.goPhase p).q = s.q := rfl
@[simp] theorem State.goPhase_cand (p : Phase) (s : State) : (s.goPhase p).cand = s.cand := rfl
@[simp] theorem State.goPhase_buf (p : Phase) (s : State) : (s.goPhase p).buf = s.buf := rfl
@[simp] theorem State.goPhase_queueOverflow (p : Phase) (s : State) : (s.goPhase p).queueOverflow = s.queueOverflow := rfl
@[simp] theorem State.goPhase_trace (p : Phase) (s : State) : (s.goPhase p).trace = s.trace := rfl
@[simp] theorem State.goPhase_program (p : Phase) (s : State) : (s.goPhase p).program = s.program := rfl
@[simp] theorem State.goPhase_nextPrograms (p : Phase) (s : State) : (s.goPhase p).nextPrograms = s.nextPrograms := rfl
@[simp] theorem State.goPhase_runEnded (p : Phase) (s : State) : (s.goPhase p).runEnded = s.runEnded := rfl
@[simp] theorem State.goPhase_answer (p : Phase) (s : State) : (s.goPhase p).answer = s.answer := rfl
@[simp] theorem State.goPhase_moves (p : Phase) (s : State) : (s.goPhase p).moves = s.moves := rfl
@[simp] theorem State.goPhase_drawn (p : Phase) (s : State) : (s.goPhase p).drawn = s.drawn := rfl

/-! ## `State.setFrame` -/

@[simp] theorem State.setFrame_frameState (f : FrameState) (s : State) : (s.setFrame f).frameState = f := rfl
@[simp] theorem State.setFrame_lastEdge (f : FrameState) (s : State) : (s.setFrame f).lastEdge = s.lastEdge := rfl
@[simp] theorem State.setFrame_savedTpb (f : FrameState) (s : State) : (s.setFrame f).savedTpb = s.savedTpb := rfl
@[simp] theorem State.setFrame_raw (f : FrameState) (s : State) : (s.setFrame f).raw = s.raw := rfl
@[simp] theorem State.setFrame_drainLeft (f : FrameState) (s : State) : (s.setFrame f).drainLeft = s.drainLeft := rfl
@[simp] theorem State.setFrame_result (f : FrameState) (s : State) : (s.setFrame f).result = s.result := rfl
@[simp] theorem State.setFrame_cmd (f : FrameState) (s : State) : (s.setFrame f).cmd = s.cmd := rfl
@[simp] theorem State.setFrame_phase (f : FrameState) (s : State) : (s.setFrame f).phase = s.phase := rfl
@[simp] theorem State.setFrame_cause (f : FrameState) (s : State) : (s.setFrame f).cause = s.cause := rfl
@[simp] theorem State.setFrame_faultCmd (f : FrameState) (s : State) : (s.setFrame f).faultCmd = s.faultCmd := rfl
@[simp] theorem State.setFrame_tpb (f : FrameState) (s : State) : (s.setFrame f).tpb = s.tpb := rfl
@[simp] theorem State.setFrame_par (f : FrameState) (s : State) : (s.setFrame f).par = s.par := rfl
@[simp] theorem State.setFrame_q (f : FrameState) (s : State) : (s.setFrame f).q = s.q := rfl
@[simp] theorem State.setFrame_cand (f : FrameState) (s : State) : (s.setFrame f).cand = s.cand := rfl
@[simp] theorem State.setFrame_buf (f : FrameState) (s : State) : (s.setFrame f).buf = s.buf := rfl
@[simp] theorem State.setFrame_queueOverflow (f : FrameState) (s : State) : (s.setFrame f).queueOverflow = s.queueOverflow := rfl
@[simp] theorem State.setFrame_trace (f : FrameState) (s : State) : (s.setFrame f).trace = s.trace := rfl
@[simp] theorem State.setFrame_program (f : FrameState) (s : State) : (s.setFrame f).program = s.program := rfl
@[simp] theorem State.setFrame_nextPrograms (f : FrameState) (s : State) : (s.setFrame f).nextPrograms = s.nextPrograms := rfl
@[simp] theorem State.setFrame_runEnded (f : FrameState) (s : State) : (s.setFrame f).runEnded = s.runEnded := rfl
@[simp] theorem State.setFrame_answer (f : FrameState) (s : State) : (s.setFrame f).answer = s.answer := rfl
@[simp] theorem State.setFrame_moves (f : FrameState) (s : State) : (s.setFrame f).moves = s.moves := rfl
@[simp] theorem State.setFrame_drawn (f : FrameState) (s : State) : (s.setFrame f).drawn = s.drawn := rfl

/-! ## `State.complete` -/

@[simp] theorem State.complete_frameState (op : Op) (s : State) : (s.complete op).frameState = s.frameState := rfl
@[simp] theorem State.complete_lastEdge (op : Op) (s : State) : (s.complete op).lastEdge = s.lastEdge := rfl
@[simp] theorem State.complete_savedTpb (op : Op) (s : State) : (s.complete op).savedTpb = s.savedTpb := rfl
@[simp] theorem State.complete_raw (op : Op) (s : State) : (s.complete op).raw = s.raw := rfl
@[simp] theorem State.complete_drainLeft (op : Op) (s : State) : (s.complete op).drainLeft = s.drainLeft := rfl
@[simp] theorem State.complete_result (op : Op) (s : State) : (s.complete op).result = s.result := rfl
@[simp] theorem State.complete_cmd (op : Op) (s : State) : (s.complete op).cmd = s.cmd := rfl
@[simp] theorem State.complete_phase (op : Op) (s : State) : (s.complete op).phase = .ready := rfl
@[simp] theorem State.complete_cause (op : Op) (s : State) : (s.complete op).cause = s.cause := rfl
@[simp] theorem State.complete_faultCmd (op : Op) (s : State) : (s.complete op).faultCmd = s.faultCmd := rfl
@[simp] theorem State.complete_tpb (op : Op) (s : State) : (s.complete op).tpb = s.tpb := rfl
@[simp] theorem State.complete_par (op : Op) (s : State) : (s.complete op).par = s.par := rfl
@[simp] theorem State.complete_q (op : Op) (s : State) : (s.complete op).q = s.q := rfl
@[simp] theorem State.complete_cand (op : Op) (s : State) : (s.complete op).cand = s.cand := rfl
@[simp] theorem State.complete_buf (op : Op) (s : State) : (s.complete op).buf = s.buf := rfl
@[simp] theorem State.complete_queueOverflow (op : Op) (s : State) : (s.complete op).queueOverflow = s.queueOverflow := rfl
@[simp] theorem State.complete_trace (op : Op) (s : State) : (s.complete op).trace = s.trace ++ [.done op none] := rfl
@[simp] theorem State.complete_program (op : Op) (s : State) : (s.complete op).program = s.program := rfl
@[simp] theorem State.complete_nextPrograms (op : Op) (s : State) : (s.complete op).nextPrograms = s.nextPrograms := rfl
@[simp] theorem State.complete_runEnded (op : Op) (s : State) : (s.complete op).runEnded = s.runEnded := rfl
@[simp] theorem State.complete_answer (op : Op) (s : State) : (s.complete op).answer = s.answer := rfl
@[simp] theorem State.complete_moves (op : Op) (s : State) : (s.complete op).moves = s.moves := rfl
@[simp] theorem State.complete_drawn (op : Op) (s : State) : (s.complete op).drawn = s.drawn := rfl

/-! ## `State.completeWith` -/

@[simp] theorem State.completeWith_frameState (op : Op) (v : ResultWord) (s : State) : (s.completeWith op v).frameState = s.frameState := rfl
@[simp] theorem State.completeWith_lastEdge (op : Op) (v : ResultWord) (s : State) : (s.completeWith op v).lastEdge = s.lastEdge := rfl
@[simp] theorem State.completeWith_savedTpb (op : Op) (v : ResultWord) (s : State) : (s.completeWith op v).savedTpb = s.savedTpb := rfl
@[simp] theorem State.completeWith_raw (op : Op) (v : ResultWord) (s : State) : (s.completeWith op v).raw = s.raw := rfl
@[simp] theorem State.completeWith_drainLeft (op : Op) (v : ResultWord) (s : State) : (s.completeWith op v).drainLeft = s.drainLeft := rfl
@[simp] theorem State.completeWith_result (op : Op) (v : ResultWord) (s : State) : (s.completeWith op v).result = v := rfl
@[simp] theorem State.completeWith_cmd (op : Op) (v : ResultWord) (s : State) : (s.completeWith op v).cmd = s.cmd := rfl
@[simp] theorem State.completeWith_phase (op : Op) (v : ResultWord) (s : State) : (s.completeWith op v).phase = .ready := rfl
@[simp] theorem State.completeWith_cause (op : Op) (v : ResultWord) (s : State) : (s.completeWith op v).cause = s.cause := rfl
@[simp] theorem State.completeWith_faultCmd (op : Op) (v : ResultWord) (s : State) : (s.completeWith op v).faultCmd = s.faultCmd := rfl
@[simp] theorem State.completeWith_tpb (op : Op) (v : ResultWord) (s : State) : (s.completeWith op v).tpb = s.tpb := rfl
@[simp] theorem State.completeWith_par (op : Op) (v : ResultWord) (s : State) : (s.completeWith op v).par = s.par := rfl
@[simp] theorem State.completeWith_q (op : Op) (v : ResultWord) (s : State) : (s.completeWith op v).q = s.q := rfl
@[simp] theorem State.completeWith_cand (op : Op) (v : ResultWord) (s : State) : (s.completeWith op v).cand = s.cand := rfl
@[simp] theorem State.completeWith_buf (op : Op) (v : ResultWord) (s : State) : (s.completeWith op v).buf = s.buf := rfl
@[simp] theorem State.completeWith_queueOverflow (op : Op) (v : ResultWord) (s : State) : (s.completeWith op v).queueOverflow = s.queueOverflow := rfl
@[simp] theorem State.completeWith_trace (op : Op) (v : ResultWord) (s : State) : (s.completeWith op v).trace = s.trace ++ [.done op (some v)] := rfl
@[simp] theorem State.completeWith_program (op : Op) (v : ResultWord) (s : State) : (s.completeWith op v).program = s.program := rfl
@[simp] theorem State.completeWith_nextPrograms (op : Op) (v : ResultWord) (s : State) : (s.completeWith op v).nextPrograms = s.nextPrograms := rfl
@[simp] theorem State.completeWith_runEnded (op : Op) (v : ResultWord) (s : State) : (s.completeWith op v).runEnded = s.runEnded := rfl
@[simp] theorem State.completeWith_answer (op : Op) (v : ResultWord) (s : State) : (s.completeWith op v).answer = s.answer := rfl
@[simp] theorem State.completeWith_moves (op : Op) (v : ResultWord) (s : State) : (s.completeWith op v).moves = s.moves := rfl
@[simp] theorem State.completeWith_drawn (op : Op) (v : ResultWord) (s : State) : (s.completeWith op v).drawn = s.drawn := rfl

/-! ## `State.raise` -/

@[simp] theorem State.raise_frameState (c : Cause) (s : State) : (s.raise c).frameState = s.frameState := rfl
@[simp] theorem State.raise_lastEdge (c : Cause) (s : State) : (s.raise c).lastEdge = s.lastEdge := rfl
@[simp] theorem State.raise_savedTpb (c : Cause) (s : State) : (s.raise c).savedTpb = s.savedTpb := rfl
@[simp] theorem State.raise_raw (c : Cause) (s : State) : (s.raise c).raw = s.raw := rfl
@[simp] theorem State.raise_drainLeft (c : Cause) (s : State) : (s.raise c).drainLeft = s.drainLeft := rfl
@[simp] theorem State.raise_result (c : Cause) (s : State) : (s.raise c).result = s.result := rfl
@[simp] theorem State.raise_cmd (c : Cause) (s : State) : (s.raise c).cmd = s.cmd := rfl
@[simp] theorem State.raise_phase (c : Cause) (s : State) : (s.raise c).phase = .halted := rfl
@[simp] theorem State.raise_cause (c : Cause) (s : State) : (s.raise c).cause = c.code := rfl
@[simp] theorem State.raise_faultCmd (c : Cause) (s : State) : (s.raise c).faultCmd = s.cmd := rfl
@[simp] theorem State.raise_tpb (c : Cause) (s : State) : (s.raise c).tpb = s.tpb := rfl
@[simp] theorem State.raise_par (c : Cause) (s : State) : (s.raise c).par = s.par := rfl
@[simp] theorem State.raise_q (c : Cause) (s : State) : (s.raise c).q = s.q := rfl
@[simp] theorem State.raise_cand (c : Cause) (s : State) : (s.raise c).cand = s.cand := rfl
@[simp] theorem State.raise_buf (c : Cause) (s : State) : (s.raise c).buf = s.buf := rfl
@[simp] theorem State.raise_queueOverflow (c : Cause) (s : State) : (s.raise c).queueOverflow = s.queueOverflow := rfl
@[simp] theorem State.raise_trace (c : Cause) (s : State) : (s.raise c).trace = s.trace ++ [.fault c.code s.cmd] := rfl
@[simp] theorem State.raise_program (c : Cause) (s : State) : (s.raise c).program = s.program := rfl
@[simp] theorem State.raise_nextPrograms (c : Cause) (s : State) : (s.raise c).nextPrograms = s.nextPrograms := rfl
@[simp] theorem State.raise_runEnded (c : Cause) (s : State) : (s.raise c).runEnded = s.runEnded := rfl
@[simp] theorem State.raise_answer (c : Cause) (s : State) : (s.raise c).answer = s.answer := rfl
@[simp] theorem State.raise_moves (c : Cause) (s : State) : (s.raise c).moves = s.moves := rfl
@[simp] theorem State.raise_drawn (c : Cause) (s : State) : (s.raise c).drawn = s.drawn := rfl

/-! ## `State.setTicksPerBit` -/

@[simp] theorem State.setTicksPerBit_frameState (v : TicksPerBit) (s : State) : (s.setTicksPerBit v).frameState = s.frameState := rfl
@[simp] theorem State.setTicksPerBit_lastEdge (v : TicksPerBit) (s : State) : (s.setTicksPerBit v).lastEdge = s.lastEdge := rfl
@[simp] theorem State.setTicksPerBit_savedTpb (v : TicksPerBit) (s : State) : (s.setTicksPerBit v).savedTpb = s.savedTpb := rfl
@[simp] theorem State.setTicksPerBit_raw (v : TicksPerBit) (s : State) : (s.setTicksPerBit v).raw = s.raw := rfl
@[simp] theorem State.setTicksPerBit_drainLeft (v : TicksPerBit) (s : State) : (s.setTicksPerBit v).drainLeft = s.drainLeft := rfl
@[simp] theorem State.setTicksPerBit_result (v : TicksPerBit) (s : State) : (s.setTicksPerBit v).result = s.result := rfl
@[simp] theorem State.setTicksPerBit_cmd (v : TicksPerBit) (s : State) : (s.setTicksPerBit v).cmd = s.cmd := rfl
@[simp] theorem State.setTicksPerBit_phase (v : TicksPerBit) (s : State) : (s.setTicksPerBit v).phase = s.phase := rfl
@[simp] theorem State.setTicksPerBit_cause (v : TicksPerBit) (s : State) : (s.setTicksPerBit v).cause = s.cause := rfl
@[simp] theorem State.setTicksPerBit_faultCmd (v : TicksPerBit) (s : State) : (s.setTicksPerBit v).faultCmd = s.faultCmd := rfl
@[simp] theorem State.setTicksPerBit_tpb (v : TicksPerBit) (s : State) : (s.setTicksPerBit v).tpb = v := rfl
@[simp] theorem State.setTicksPerBit_par (v : TicksPerBit) (s : State) : (s.setTicksPerBit v).par = s.par := rfl
@[simp] theorem State.setTicksPerBit_q (v : TicksPerBit) (s : State) : (s.setTicksPerBit v).q = s.q := rfl
@[simp] theorem State.setTicksPerBit_cand (v : TicksPerBit) (s : State) : (s.setTicksPerBit v).cand = s.cand := rfl
@[simp] theorem State.setTicksPerBit_buf (v : TicksPerBit) (s : State) : (s.setTicksPerBit v).buf = s.buf := rfl
@[simp] theorem State.setTicksPerBit_queueOverflow (v : TicksPerBit) (s : State) : (s.setTicksPerBit v).queueOverflow = s.queueOverflow := rfl
@[simp] theorem State.setTicksPerBit_trace (v : TicksPerBit) (s : State) : (s.setTicksPerBit v).trace = s.trace ++ [.setTpb v] := rfl
@[simp] theorem State.setTicksPerBit_program (v : TicksPerBit) (s : State) : (s.setTicksPerBit v).program = s.program := rfl
@[simp] theorem State.setTicksPerBit_nextPrograms (v : TicksPerBit) (s : State) : (s.setTicksPerBit v).nextPrograms = s.nextPrograms := rfl
@[simp] theorem State.setTicksPerBit_runEnded (v : TicksPerBit) (s : State) : (s.setTicksPerBit v).runEnded = s.runEnded := rfl
@[simp] theorem State.setTicksPerBit_answer (v : TicksPerBit) (s : State) : (s.setTicksPerBit v).answer = s.answer := rfl
@[simp] theorem State.setTicksPerBit_moves (v : TicksPerBit) (s : State) : (s.setTicksPerBit v).moves = s.moves := rfl
@[simp] theorem State.setTicksPerBit_drawn (v : TicksPerBit) (s : State) : (s.setTicksPerBit v).drawn = s.drawn := rfl

/-! ## `State.delegate` -/

@[simp] theorem State.delegate_frameState (a : Answer) (c : Call) (s : State) : (s.delegate a c).frameState = s.frameState := rfl
@[simp] theorem State.delegate_lastEdge (a : Answer) (c : Call) (s : State) : (s.delegate a c).lastEdge = a.lastEdge := rfl
@[simp] theorem State.delegate_savedTpb (a : Answer) (c : Call) (s : State) : (s.delegate a c).savedTpb = s.savedTpb := rfl
@[simp] theorem State.delegate_raw (a : Answer) (c : Call) (s : State) : (s.delegate a c).raw = s.raw := rfl
@[simp] theorem State.delegate_drainLeft (a : Answer) (c : Call) (s : State) : (s.delegate a c).drainLeft = s.drainLeft := rfl
@[simp] theorem State.delegate_result (a : Answer) (c : Call) (s : State) : (s.delegate a c).result = s.result := rfl
@[simp] theorem State.delegate_cmd (a : Answer) (c : Call) (s : State) : (s.delegate a c).cmd = s.cmd := rfl
@[simp] theorem State.delegate_phase (a : Answer) (c : Call) (s : State) : (s.delegate a c).phase = s.phase := rfl
@[simp] theorem State.delegate_cause (a : Answer) (c : Call) (s : State) : (s.delegate a c).cause = s.cause := rfl
@[simp] theorem State.delegate_faultCmd (a : Answer) (c : Call) (s : State) : (s.delegate a c).faultCmd = s.faultCmd := rfl
@[simp] theorem State.delegate_tpb (a : Answer) (c : Call) (s : State) : (s.delegate a c).tpb = s.tpb := rfl
@[simp] theorem State.delegate_par (a : Answer) (c : Call) (s : State) : (s.delegate a c).par = s.par := rfl
@[simp] theorem State.delegate_q (a : Answer) (c : Call) (s : State) : (s.delegate a c).q = s.q.drop a.consumed := rfl
@[simp] theorem State.delegate_cand (a : Answer) (c : Call) (s : State) : (s.delegate a c).cand = s.cand := rfl
@[simp] theorem State.delegate_buf (a : Answer) (c : Call) (s : State) : (s.delegate a c).buf = s.buf := rfl
@[simp] theorem State.delegate_queueOverflow (a : Answer) (c : Call) (s : State) : (s.delegate a c).queueOverflow = s.queueOverflow := rfl
@[simp] theorem State.delegate_trace (a : Answer) (c : Call) (s : State) : (s.delegate a c).trace = s.trace ++ [.call c] := rfl
@[simp] theorem State.delegate_program (a : Answer) (c : Call) (s : State) : (s.delegate a c).program = s.program := rfl
@[simp] theorem State.delegate_nextPrograms (a : Answer) (c : Call) (s : State) : (s.delegate a c).nextPrograms = s.nextPrograms := rfl
@[simp] theorem State.delegate_runEnded (a : Answer) (c : Call) (s : State) : (s.delegate a c).runEnded = s.runEnded := rfl
@[simp] theorem State.delegate_answer (a : Answer) (c : Call) (s : State) : (s.delegate a c).answer = none := rfl
@[simp] theorem State.delegate_moves (a : Answer) (c : Call) (s : State) : (s.delegate a c).moves = s.moves := rfl
@[simp] theorem State.delegate_drawn (a : Answer) (c : Call) (s : State) : (s.delegate a c).drawn = s.drawn := rfl

/-! ## `State.applyReset` -/

@[simp] theorem State.applyReset_frameState (s : State) : (s.applyReset).frameState = .idle := rfl
@[simp] theorem State.applyReset_lastEdge (s : State) : (s.applyReset).lastEdge = lastEdgeAtReset s.par := rfl
@[simp] theorem State.applyReset_savedTpb (s : State) : (s.applyReset).savedTpb = 0 := rfl
@[simp] theorem State.applyReset_raw (s : State) : (s.applyReset).raw = 0 := rfl
@[simp] theorem State.applyReset_drainLeft (s : State) : (s.applyReset).drainLeft = 0 := rfl
@[simp] theorem State.applyReset_result (s : State) : (s.applyReset).result = 0 := rfl
@[simp] theorem State.applyReset_cmd (s : State) : (s.applyReset).cmd = 0 := rfl
@[simp] theorem State.applyReset_phase (s : State) : (s.applyReset).phase = .ready := rfl
@[simp] theorem State.applyReset_cause (s : State) : (s.applyReset).cause = 0 := rfl
@[simp] theorem State.applyReset_faultCmd (s : State) : (s.applyReset).faultCmd = 0 := rfl
@[simp] theorem State.applyReset_tpb (s : State) : (s.applyReset).tpb = s.par.tpbInit := rfl
@[simp] theorem State.applyReset_par (s : State) : (s.applyReset).par = s.par := rfl
@[simp] theorem State.applyReset_q (s : State) : (s.applyReset).q = [] := rfl
@[simp] theorem State.applyReset_cand (s : State) : (s.applyReset).cand = s.cand := rfl
@[simp] theorem State.applyReset_buf (s : State) : (s.applyReset).buf = s.buf := rfl
@[simp] theorem State.applyReset_queueOverflow (s : State) : (s.applyReset).queueOverflow = s.queueOverflow := rfl
@[simp] theorem State.applyReset_trace (s : State) : (s.applyReset).trace = s.trace ++ [.reset] := rfl
@[simp] theorem State.applyReset_program (s : State) : (s.applyReset).program = s.nextPrograms.headD [] := rfl
@[simp] theorem State.applyReset_nextPrograms (s : State) : (s.applyReset).nextPrograms = s.nextPrograms.tail := rfl
@[simp] theorem State.applyReset_runEnded (s : State) : (s.applyReset).runEnded = (s.nextPrograms.isEmpty && s.runOver) := rfl
@[simp] theorem State.applyReset_answer (s : State) : (s.applyReset).answer = none := rfl
@[simp] theorem State.applyReset_moves (s : State) : (s.applyReset).moves = s.moves := rfl
@[simp] theorem State.applyReset_drawn (s : State) : (s.applyReset).drawn = s.drawn := rfl

end Sys2Proof.Machine
end

