-- ==== Sys2Proof/Laws/Steps.lean ====
section
/-! SUPPORT. What each shared operation and each micro-step can do, said once: the case lemmas that later proofs cite
instead of unfolding the operation. -/

namespace Sys2Proof.Machine

/-! ## The edge queue -/

/-- The block's pop, with an event queued. -/
theorem State.popEdge_cons {s : State} {e : EventWord} {rest : List EventWord} (h : s.q = e :: rest) :
    s.popEdge = some (e, { s with q := rest, lastEdge := e, trace := s.trace ++ [.pop e] }) := by
  simp [State.popEdge, h]

/-- The block's pop, with none. -/
theorem State.popEdge_nil {s : State} (h : s.q = []) : s.popEdge = none := by
  simp [State.popEdge, h]

/-- Everything a push can do. -/
theorem State.pushEdge_cases (e : EventWord) (s : State) :
    (s.queueOverflow = true ∧ s.pushEdge e = s) ∨
    (s.queueOverflow = false ∧ s.queueFull = true ∧ s.pushEdge e = { s with queueOverflow := true }) ∨
    (s.queueOverflow = false ∧ s.queueFull = false ∧
      s.pushEdge e = { s with q := s.q ++ [e], trace := s.trace ++ [.push e] }) := by
  unfold State.pushEdge
  cases s.queueOverflow <;> cases s.queueFull <;> simp

/-! ## The end of a run -/

/-- What one more event of the trace does to the completion of the last command. -/
theorem Event.foldl_updateDone_append (l : List Event) (e : Event) (done : Bool) :
    (l ++ [e]).foldl Event.updateDone done = Event.updateDone (l.foldl Event.updateDone done) e := by
  simp

/-- When a run is over. -/
theorem State.runOver_iff {s : State} : s.runOver = true ↔
    s.phase = .ready ∧ s.program = [] ∧ (s.lastCommandDone = true ∨ s.runEnded = true) := by
  simp [State.runOver, and_assoc]

/-! ## The checks at issue -/

/-- An operation passes its checks at issue exactly when the frame state is the one it requires, its list is not empty
and its range is within its space (R165). -/
theorem issueFault_eq_none {i : Instr} {f : FrameState} : issueFault i f = none ↔
    (∀ want, requiredFrame i.op = some want → f = want) ∧
    (∀ base n, i = .setAutoBaud base n → n ≠ 0 ∧ base + n ≤ Config.candWords) ∧
    (∀ addr size, i = .read addr size ∨ i = .write addr size → addr + size ≤ Config.bufBytes) := by
  cases i <;> cases f <;> simp [issueFault, requiredFrame, Instr.op, candRangeOk, bufRangeOk]
  grind

/-! ## The micro-steps -/

/-- Everything the judgement of an interval can do (R125). -/
theorem State.judgeInterval_cases (p e : EventWord) (s : State) :
    (s.tpb = 0 ∧ s.judgeInterval p e = s.raise .zeroTicksPerBit) ∨
    (s.tpb ≠ 0 ∧ isBreak (lineLevel p s.par.invert) (bitCount (interval e p) s.tpb.toNat) = true ∧
      s.judgeInterval p e = (s.setFrame .inFrame).completeWith .checkBreak 1) ∨
    (s.tpb ≠ 0 ∧ isBreak (lineLevel p s.par.invert) (bitCount (interval e p) s.tpb.toNat) = false ∧
      s.judgeInterval p e = s.goPhase .cbScan) := by
  unfold State.judgeInterval State.getTicksPerBit
  by_cases h : s.tpb = 0
  · exact .inl ⟨h, if_pos h⟩
  · rw [if_neg h]
    cases hb : isBreak (lineLevel p s.par.invert) (bitCount (interval e p) s.tpb.toNat)
    · exact .inr (.inr ⟨h, rfl, rfl⟩)
    · exact .inr (.inl ⟨h, rfl, rfl⟩)

/-- Everything the detect step can do (R142). -/
theorem State.detectStep_cases (a : Answer) (s : State) :
    (a.raw = 0 ∧ s.detectStep a = (({ s.delegate a (.detectRawBaud a.raw) with raw := a.raw }).setTicksPerBit
      s.savedTpb).completeWith .setAutoBaud 0) ∨
    (a.raw ≠ 0 ∧ s.detectStep a =
      { s.delegate a (.detectRawBaud a.raw) with raw := a.raw, drainLeft := 3, phase := .abDrain }) := by
  unfold State.detectStep Config.noDetection Config.syncDrainEdges
  by_cases h : a.raw = 0
  · exact .inl ⟨h, if_pos h⟩
  · exact .inr ⟨h, if_neg h⟩

/-- Everything the drain step can do (R142, R146). -/
theorem State.drainStep_cases (s : State) :
    (s.q = [] ∧ s.drainStep = none) ∨
    (∃ e rest, s.q = e :: rest ∧ s.drainStep = some { s with
      q := rest, lastEdge := e, drainLeft := s.drainLeft - 1, trace := s.trace ++ [.pop e],
      phase := if s.drainLeft - 1 = 0 then .abSelect else .abDrain }) := by
  unfold State.drainStep
  cases h : s.q with
  | nil => simp [State.popEdge_nil h]
  | cons e rest => simp [State.popEdge_cons h, State.goPhase]

/-- Everything the settlement of a selected candidate can do (R142). -/
theorem State.settle_cases (sel : Baud) (s : State) :
    (Config.maxBaud < sel.toNat ∧
      s.settle sel = (s.setTicksPerBit s.savedTpb).completeWith .setAutoBaud 0) ∨
    (sel = 0 ∧ s.settle sel = s.raise .zeroBaudCandidate) ∨
    (1 ≤ sel.toNat ∧ sel.toNat ≤ Config.maxBaud ∧
      s.settle sel = (s.setTicksPerBit (committedTicks s.par sel)).completeWith .setAutoBaud sel) := by
  unfold State.settle Config.noDetection
  by_cases h : Config.maxBaud < sel.toNat
  · exact .inl ⟨h, if_pos h⟩
  · rw [if_neg h]
    by_cases h0 : sel = 0
    · exact .inr (.inl ⟨h0, if_pos h0⟩)
    · have h1 : 1 ≤ sel.toNat := by
        rcases Nat.eq_zero_or_pos sel.toNat with hz | hz
        · exact absurd (BitVec.eq_of_toNat_eq (by simpa using hz)) h0
        · exact hz
      exact .inr (.inr ⟨h1, Nat.not_lt.1 h, if_neg h0⟩)

/-! ## The meanings: what each can do when it answers a next state -/

theorem execSendBreak_cases {b d : Nat} {s t : State} (h : execSendBreak b d s = .next t) :
    (s.phase = .ready ∧ ∃ c, issueFault (.sendBreak b d) s.frameState = some c ∧ t = s.raise c) ∨
    (s.phase = .ready ∧ issueFault (.sendBreak b d) s.frameState = none ∧ t = s.goPhase .xportWait) ∨
    (∃ a, s.phase = .xportWait ∧ s.answer = some a ∧ t = s.emitBreak b d a) ∨
    (s.phase ≠ .ready ∧ (s.phase = .xportWait → s.answer = none) ∧ t = s) := by
  unfold execSendBreak at h
  cases hp : s.phase <;> simp only [hp] at h <;> (repeat' split at h) <;> cases h <;> simp_all

theorem execEndFrame_cases {s t : State} (h : execEndFrame s = .next t) :
    (s.phase = .ready ∧ t = (s.setFrame .idle).complete .endFrame) ∨ (s.phase ≠ .ready ∧ t = s) := by
  unfold execEndFrame at h
  cases hp : s.phase <;> simp only [hp] at h <;> cases h <;> simp_all

theorem execRead_cases {addr size : Nat} {s t : State} (h : execRead addr size s = .next t) :
    (s.phase = .ready ∧ ∃ c, issueFault (.read addr size) s.frameState = some c ∧ t = s.raise c) ∨
    (s.phase = .ready ∧ issueFault (.read addr size) s.frameState = none ∧ t = s.goPhase .xportWait) ∨
    (∃ a, s.phase = .xportWait ∧ s.answer = some a ∧ bufRangeOk addr size = true ∧ t = s.receive addr size a) ∨
    (s.phase ≠ .ready ∧ (s.phase = .xportWait → s.answer = none) ∧ t = s) := by
  unfold execRead at h
  cases hp : s.phase <;> simp only [hp] at h <;> (repeat' split at h) <;> cases h <;> simp_all

theorem execWrite_cases {addr size : Nat} {s t : State} (h : execWrite addr size s = .next t) :
    (s.phase = .ready ∧ ∃ c, issueFault (.write addr size) s.frameState = some c ∧ t = s.raise c) ∨
    (s.phase = .ready ∧ issueFault (.write addr size) s.frameState = none ∧ t = s.goPhase .xportWait) ∨
    (∃ a, s.phase = .xportWait ∧ s.answer = some a ∧ bufRangeOk addr size = true ∧
      t = s.transmit (s.readBuf addr size) size a) ∨
    (s.phase ≠ .ready ∧ (s.phase = .xportWait → s.answer = none) ∧ t = s) := by
  unfold execWrite at h
  cases hp : s.phase <;> simp only [hp] at h <;> (repeat' split at h) <;> cases h <;> simp_all

theorem execCheckBreak_cases {s t : State} (h : execCheckBreak s = .next t) :
    (s.phase = .ready ∧ ∃ c, issueFault .checkBreak s.frameState = some c ∧ t = s.raise c) ∨
    (s.phase = .ready ∧ issueFault .checkBreak s.frameState = none ∧ t = s.goPhase .cbScan) ∨
    (s.phase = .cbScan ∧ s.q = [] ∧ t = s.completeWith .checkBreak 0) ∨
    (∃ e rest, s.phase = .cbScan ∧ s.q = e :: rest ∧
      t = ({ s with q := rest, lastEdge := e, trace := s.trace ++ [Event.pop e] }).judgeInterval s.lastEdge e) ∨
    (s.phase ≠ .ready ∧ s.phase ≠ .cbScan ∧ t = s) := by
  unfold execCheckBreak at h
  cases hp : s.phase <;> simp only [hp] at h
  case cbScan =>
    cases h
    cases hq : s.q with
    | nil => simp [State.scanStep, State.popEdge_nil hq]
    | cons e rest =>
      refine .inr (.inr (.inr (.inl ⟨e, rest, rfl, rfl, ?_⟩)))
      simp [State.scanStep, State.popEdge_cons hq, hp]
  all_goals (repeat' split at h) <;> cases h <;> simp_all

theorem execSetAutoBaud_cases {base n : Nat} {s t : State} (h : execSetAutoBaud base n s = .next t) :
    (s.phase = .ready ∧ ∃ c, issueFault (.setAutoBaud base n) s.frameState = some c ∧ t = s.raise c) ∨
    (s.phase = .ready ∧ issueFault (.setAutoBaud base n) s.frameState = none ∧ t = s.startAutobaud) ∨
    (∃ a, s.phase = .abDetect ∧ s.answer = some a ∧ t = s.detectStep a) ∨
    (s.phase = .abDrain ∧ s.drainStep = some t) ∨
    (∃ sel, s.phase = .abSelect ∧ candRangeOk base n = true ∧
      nearestCandidate s.raw (s.readCand base n) = some sel ∧ t = s.settle sel) ∨
    (s.phase ≠ .ready ∧ (s.phase = .abDetect → s.answer = none) ∧ (s.phase = .abDrain → s.q = []) ∧
      (s.phase = .abSelect → n = 0) ∧ t = s) := by
  unfold execSetAutoBaud at h
  cases hp : s.phase <;> simp only [hp] at h
  case abDrain =>
    rcases s.drainStep_cases with ⟨hq, hd⟩ | ⟨e, rest, hq, hd⟩
    · rw [hd] at h; cases h; simp [hq]
    · rw [hd] at h; cases h; simp [hd]
  case abSelect =>
    split at h
    · rename_i hr
      cases n with
      | zero => simp only [State.readCand, Memory.readRange, nearestCandidate] at h; cases h; simp
      | succ n =>
        simp only [State.readCand, Memory.readRange, nearestCandidate] at h ⊢
        cases h
        simp [hr]
    · cases h
  all_goals (repeat' split at h) <;> cases h <;> simp_all

/-! ## A step -/

/-- The next move takes nothing of the state but the move. -/
theorem State.nextMove_state (s : State) :
    ∃ ms d, s.nextMove.2 = { s with moves := ms, drawn := d } := by
  unfold State.nextMove
  split
  · rename_i m rest _; exact ⟨rest, s.drawn, rfl⟩
  · exact ⟨s.moves, s.drawn + 1, rfl⟩

/-- The next move, when one stands in `moves`. -/
theorem State.nextMove_cons {s : State} {m : Move} {rest : List Move} (h : s.moves = m :: rest) :
    s.nextMove = (m, { s with moves := rest }) := by
  simp [State.nextMove, h]

/-- A step whose move stands in `moves`. -/
theorem step_of_moves {s : State} {m : Move} {rest : List Move} (h : s.moves = m :: rest) :
    step s = { s with moves := rest }.perform m := by
  simp [step, State.nextMove_cons h]

/-- Everything a step can do when it answers a next state: reset, a push, a write of the host, the issue of an illegal
word, the issue of a command, a micro-step of the command in progress, or nothing. -/
theorem step_cases {s t : State} (h : step s = .next t) :
    ∃ m s', s.nextMove = (m, s') ∧
    ((m = .reset ∧ t = s'.applyReset) ∨
     (∃ e, m = .push e ∧ t = s'.pushEdge e) ∨
     (∃ v, m = .host (.setTicksPerBit v) ∧ s.phase = .ready ∧ t = s'.setTicksPerBit v) ∨
     (∃ addr v, m = .host (.writeCand addr v) ∧ s.phase = .ready ∧
       t = { s' with cand := s'.cand.write addr.toNat v }) ∨
     (∃ addr v, m = .host (.writeBuf addr v) ∧ s.phase = .ready ∧
       t = { s' with buf := s'.buf.write addr.toNat v }) ∨
     (∃ w later e, m = .host .issue ∧ s.phase = .ready ∧ s.program = w :: later ∧ decode w = .error e ∧
       t = ({ s' with program := later, cmd := w }.record (.issue w)).raise .illegalCommand) ∨
     (∃ w later i, m = .host .issue ∧ s.phase = .ready ∧ s.program = w :: later ∧ decode w = .ok i ∧
       exec i ({ s' with program := later, cmd := w }.record (.issue w)) = .next t) ∨
     (∃ i answer, s.phase ≠ .ready ∧ s.phase ≠ .halted ∧ decode s.cmd = .ok i ∧
       ((m = .block ∧ answer = s.answer) ∨
        (∃ a, m = .transport a ∧ answer = some a ∧ (s.phase = .abDetect ∨ s.phase = .xportWait))) ∧
       exec i { s' with answer := answer } = .next t) ∨
     (m ≠ .reset ∧ t = s')) := by
  obtain ⟨ms, d, hs⟩ := s.nextMove_state
  refine ⟨s.nextMove.1, s.nextMove.2, rfl, ?_⟩
  unfold step at h
  generalize s.nextMove.1 = m at *
  rw [hs] at h ⊢
  cases m with
  | reset => cases h; simp
  | push e => cases h; simp
  | block =>
    simp only [State.perform, State.blockMove, State.continueCommand] at h
    cases hp : s.phase <;> simp only [hp] at h
    case ready => cases h; simp
    case halted => cases h; simp
    all_goals
      cases hd : decode s.cmd <;> simp only [hd] at h
      · cases h; simp
      · simp [h]
  | transport a =>
    simp only [State.perform, State.transportMove, State.continueCommand] at h
    cases hp : s.phase <;> simp only [hp] at h
    case abDetect =>
      cases hd : decode s.cmd <;> simp only [hd] at h
      · cases h; simp
      · simp [h]
    case xportWait =>
      cases hd : decode s.cmd <;> simp only [hd] at h
      · cases h; simp
      · simp [h]
    all_goals cases h; simp
  | host a =>
    simp only [State.perform, State.hostMove, State.issueCommand] at h
    cases hp : s.phase <;> simp only [hp] at h
    case ready =>
      cases a with
      | issue =>
        simp only at h
        cases hw : s.program with
        | nil => simp only [hw] at h; cases h; simp
        | cons w later =>
          simp only [hw] at h
          cases hd : decode w <;> simp only [hd] at h
          · cases h; simp [hd]
          · simp [h, hd]
      | setTicksPerBit v => cases h; simp
      | writeCand addr v => cases h; simp
      | writeBuf addr v => cases h; simp
    all_goals cases h; simp

end Sys2Proof.Machine
end

