-- ==== Sys2Proof/Tests/Slice0.lean ====
section
/-! SUPPORT. The model's own tests. Expected results are the vectors of spec/95_test_vectors.md (named in each comment) or
words written out from the tables of spec/30_encoding.md; and for every obligation with hypotheses a witness, a
concrete state and operands that meet them all together. -/

namespace Sys2Proof.Tests

open Sys2Proof Sys2Proof.Machine

/-! ## Helpers -/

/-- Configuration `X` of spec/95_test_vectors.md: `TPS` 1000000, `TPB_INIT` 104, `TPB_REF` 1, `INVERT` 0, `QCAP` unbounded. -/
def confX : Params where
  invert := false
  tps := 1000000
  tpbRef := 1
  tpbInit := 104
  qcap := none

/-- The machine after reset under configuration `X`. -/
def start : State := State.resetWith confX

/-- A transport answer that removes nothing and leaves `LAST_EDGE` at 7. -/
def quiet : Answer where
  consumed := 0
  lastEdge := 7
  raw := 0
  bytes := []
  count := 0

/-- What a step says of its next state, `none` when it stops. -/
def after {α : Type} (r : StepResult) (f : State → α) : Option α :=
  match r with
  | .next s => some (f s)
  | .fault _ => none
  | .refused _ => none

/-- A command in progress in the phase it waits or runs in. -/
def during (w : CmdWord) (p : Phase) (f : FrameState) : State :=
  { start with cmd := w, phase := p, frameState := f }

/-- `start` with one move to take. -/
def taking (m : Move) (s : State) : State :=
  { s with moves := [m] }

/-- `s` with one word left in the host's program, and its issue the one move to take. -/
def issuing (w : CmdWord) (s : State) : State :=
  { s with program := [w], moves := [.host .issue] }

/-! ## WellFormed refuses each ill-formed operand (R83 to R85, R91) -/

theorem test_wf_sendBreak : (Instr.sendBreak 255 255).wf = true ∧ (Instr.sendBreak 256 0).wf = false ∧
    (Instr.sendBreak 0 256).wf = false := by decide

theorem test_wf_setAutoBaud : (Instr.setAutoBaud 65535 4095).wf = true ∧ (Instr.setAutoBaud 65536 1).wf = false ∧
    (Instr.setAutoBaud 0 4096).wf = false := by decide

theorem test_wf_read : (Instr.read 65535 4095).wf = true ∧ (Instr.read 65536 1).wf = false ∧
    (Instr.read 0 4096).wf = false := by decide

theorem test_wf_write : (Instr.write 65535 4095).wf = true ∧ (Instr.write 65536 1).wf = false ∧
    (Instr.write 0 4096).wf = false := by decide

theorem test_wf_noOperand : Instr.checkBreak.wf = true ∧ Instr.endFrame.wf = true := by decide

/-! ## Words written out bit by bit from R81 and R87 -/

/-- Format B: opcode 0001, zeros, `breakBits` 13, `delimiterBits` 1. -/
theorem test_decode_sendBreak : decode 0b0001_000000000000_00001101_00000001 = .ok (.sendBreak 13 1) := by decide

/-- Format N: opcode 0010. -/
theorem test_decode_checkBreak : decode 0b0010_000000000000_00000000_00000000 = .ok .checkBreak := by decide

/-- Format C: opcode 0011, `n` 3, `base` 0x8001. -/
theorem test_decode_setAutoBaud : decode 0b0011_000000000011_1000000000000001 = .ok (.setAutoBaud 0x8001 3) := by decide

/-- Format N: opcode 0100. -/
theorem test_decode_endFrame : decode 0b0100_000000000000_00000000_00000000 = .ok .endFrame := by decide

/-- Format M: opcode 0101, `size` 0x801, `addr` 0x0100. -/
theorem test_decode_read : decode 0b0101_100000000001_0000000100000000 = .ok (.read 0x0100 0x801) := by decide

/-- Format M: opcode 0110, `size` 8, `addr` 0x1234. -/
theorem test_decode_write : decode 0b0110_000000001000_0001001000110100 = .ok (.write 0x1234 8) := by decide

/-- R88: the all-zero and all-ones words, opcode 0111, and a must-be-zero bit set in each format that has one. -/
theorem test_decode_refuses : decode 0 = .error .noSuchOpcode ∧ decode 0xFFFFFFFF = .error .noSuchOpcode ∧
    decode 0x70000000 = .error .noSuchOpcode ∧ decode 0x10010D01 = .error .reservedBitsSet ∧
    decode 0x20000001 = .error .reservedBitsSet ∧ decode 0x48000000 = .error .reservedBitsSet := by decide

/-- R63: the bytes of a word, lowest first; too few bytes are no command; what follows the word is left. -/
theorem test_decode_bytes : bytesOfWord 0x50020010 = [0x10, 0x00, 0x02, 0x50] ∧
    decodeBytes [0x10, 0x00, 0x02, 0x50, 0xAA] = .ok (.read 0x0010 2, [0xAA]) ∧
    decodeBytes [0x10, 0x00, 0x02] = .error .truncated := by decide

theorem test_decode_tableWord : decodeTableWord 32 0x60081234 = some (.write 0x1234 8) ∧
    decodeTableWord 32 0x00000000 = none := by decide

/-- R91: the short forms, and an operand that does not fit. -/
theorem test_assemble : assemble .sendBreakBare = .ok 0x10000D01 ∧ assemble (.sendBreakOne 20) = .ok 0x10001401 ∧
    assemble (.command (.sendBreak 256 1)) = .error .operandDoesNotFit := by decide

/-- R91: decimal and hexadecimal operands, and a mnemonic that is none. -/
theorem test_assemble_text :
    assembleText ['r', 'e', 'a', 'd', ' ', '0', 'x', '0', '1', '0', '0', ',', ' ', '2'] = .ok 0x50020100 ∧
    assembleText ['e', 'n', 'd', 'F', 'r', 'a', 'm', 'e'] = .ok 0x40000000 ∧
    assembleText ['r', 'e', 'a', 'd', 's', ' ', '1', ',', '2'] = .error .unknownLine := by decide

/-! ## Arithmetic -/

/-- Family D and C1: an exact half stays down; the threshold at 104. -/
theorem test_bits : bitCount 1300 104 = 12 ∧ bitCount 1301 104 = 13 ∧ bitCount 1312 105 = 12 ∧
    bitCount 1313 105 = 13 ∧ bitCount 1352 104 = 13 := by decide

/-- VB14: the interval across the wrap is 1537 ticks. -/
theorem test_interval_wraps : interval 0x00000501 0xFFFFFF00 = 1537 := by decide

/-- VC2, VC4, VC4r, VC11: ties go to the earlier candidate. -/
theorem test_ties : nearestCandidate 7200 [4800, 9600, 19200] = some 4800 ∧
    nearestCandidate 14400 [4800, 9600, 19200] = some 9600 ∧
    nearestCandidate 14400 [19200, 9600, 4800] = some 19200 ∧ nearestCandidate 4800 [9600, 0] = some 9600 := by decide

/-- Commit rounding (R151 and the line under family C). -/
theorem test_commit : roundedTicks 1000000 9600 = 104 ∧ roundedTicks 1000 16 = 63 ∧ roundedTicks 1000 3 = 333 ∧
    roundedTicks 10 20 = 1 ∧ roundedTicks 5 20 = 0 := by decide

/-- A memory keeps its canonical form out of order and over an old entry. -/
theorem test_memory_canonical : Memory.write (Memory.write (Memory.write ([] : Memory Byte) 5 1) 2 2) 5 3 =
    [(2, 2), (5, 3)] := by decide

/-! ## Single steps -/

/-- The state after reset under configuration `X` (part 3 of the vectors): `LAST_EDGE` 1, `TPB` 104. -/
theorem test_reset : start.lastEdge = 1 ∧ start.tpb = 104 ∧ start.phase = .ready ∧ start.frameState = .idle := by decide

/-- VA1: the transport step of `sendBreak 13, 1`. -/
theorem test_sendBreak_emits :
    after (exec (.sendBreak 13 1) { during 0x10000D01 .xportWait .idle with result := 7, answer := some quiet })
      (fun t => (t.frameState, t.result, t.trace.getLast?, t.trace[1]?)) =
    some (.inFrame, 7, some (.done .sendBreak none), some (.call (.emitPeriod 1352 104 false))) := by decide

/-- VF1: `sendBreak` in `InFrame` is cause 2 and emits nothing. -/
theorem test_sendBreak_faults :
    after (step (issuing 0x10000D01 { start with frameState := .inFrame }))
      (fun t => (t.cause, t.faultCmd, t.phase, t.frameState)) =
    some (2, 0x10000D01, .halted, .inFrame) := by decide

/-- The example of R125. -/
theorem test_checkBreak_detects :
    after (exec .checkBreak { during 0x20000000 .cbScan .idle with lastEdge := 10000, q := [11353] })
      (fun t => (t.frameState, t.result, t.lastEdge, t.q)) = some (.inFrame, 1, 11353, []) := by decide

/-- VB15: a zero `TPB` faults after the pop. -/
theorem test_checkBreak_zeroTpb :
    after (exec .checkBreak { during 0x20000000 .cbScan .idle with tpb := 0, lastEdge := 10000, q := [11353] })
      (fun t => (t.cause, t.faultCmd, t.phase, t.lastEdge, t.q)) =
    some (6, 0x20000000, .halted, 11353, []) := by decide

/-- VC1: the select step commits 9600. -/
theorem test_setAutoBaud_commits :
    after (exec (.setAutoBaud 0 3) { during 0x30030000 .abSelect .inFrame with
        tpb := 1, savedTpb := 104, raw := 9615, cand := [(0, 4800), (1, 9600), (2, 19200)] })
      (fun t => (t.result, t.tpb, t.phase)) = some (9600, 104, .ready) := by decide

/-- VC12: a selected zero is cause 7, and `TPB` stays the reference value. -/
theorem test_setAutoBaud_zero :
    after (exec (.setAutoBaud 0 2) { during 0x30020000 .abSelect .inFrame with
        tpb := 1, savedTpb := 104, raw := 100, cand := [(0, 0), (1, 9600)] })
      (fun t => (t.cause, t.tpb, t.phase)) = some (7, 1, .halted) := by decide

/-- VA5. -/
theorem test_endFrame :
    after (step (issuing 0x40000000 { start with frameState := .inFrame, result := 7, q := [3] }))
      (fun t => (t.frameState, t.phase, t.result, t.q)) = some (.idle, .ready, 7, [3]) := by decide

/-- VA10: the two last bytes of `BUF` are in range. -/
theorem test_read_stores :
    after (exec (.read 0xFFFE 2) { during 0x5002FFFE .xportWait .inFrame with
        answer := some { quiet with bytes := [1, 2] } })
      (fun t => (t.buf, t.result, t.lastEdge)) = some ([(0xFFFE, 1), (0xFFFF, 2)], 2, 7) := by decide

/-- VF6: in `Idle` the frame state is reported, not the range; VA11: in `InFrame` the range is. -/
theorem test_read_faults :
    after (step (issuing 0x5002FFFF start)) (fun t => t.cause) = some 3 ∧
    after (step (issuing 0x5002FFFF { start with frameState := .inFrame })) (fun t => t.cause) =
      some 5 := by decide

/-- VA9: a short write. -/
theorem test_write_short :
    after (exec (.write 0 2) { during 0x60020000 .xportWait .inFrame with
        buf := [(0, 0x55), (1, 0xC1)], answer := some { quiet with count := 1 } })
      (fun t => (t.result, t.buf, t.trace[1]?)) =
    some (1, [(0, 0x55), (1, 0xC1)], some (.call (.transportWrite [0x55, 0xC1] 2 1))) := by decide

/-- P4 part b, step 3: the drain holds while `Q` is empty, and is no stop. -/
theorem test_drain_holds :
    after (step (taking .block { during 0x30030000 .abDrain .inFrame with drainLeft := 3 }))
      (fun t => (t.phase, t.drainLeft)) = some (.abDrain, 3) := by decide

/-- R92, R28: an issue outside `READY` issues nothing, and the word is still to be issued. -/
theorem test_issue_waits :
    after (step (issuing 0x40000000 (during 0x20000000 .cbScan .idle))) (fun t => (t.program, t.cmd)) =
      some ([0x40000000], 0x20000000) := by decide

/-- VF9: a halted block accepts nothing. -/
theorem test_halted_accepts_nothing :
    after (step (issuing 0x40000000 { start with phase := .halted, cause := 3 }))
      (fun t => (t.phase, t.cause, t.cmd)) = some (.halted, 3, 0) := by decide

/-- R88 through the host's placement: the step runs the word placed, whatever stood in `moves`. -/
theorem test_withFetchWord :
    after (step (start.withFetchWord 32 0x20000000)) (fun t => (t.phase, t.cmd)) = some (.cbScan, 0x20000000) := by decide

/-! ## Witnesses: encoding -/

theorem witness_DecodeOfEncode : (Instr.sendBreak 255 255).wf = true ∧ Instr.checkBreak.wf = true ∧
    (Instr.setAutoBaud 65535 4095).wf = true ∧ Instr.endFrame.wf = true ∧ (Instr.read 65535 4095).wf = true ∧
    (Instr.write 65535 4095).wf = true := by decide

theorem witness_EncodeOfDecode : decode 0x1000FFFF = .ok (.sendBreak 255 255) ∧
    decode 0x20000000 = .ok .checkBreak ∧ decode 0x3FFFFFFF = .ok (.setAutoBaud 65535 4095) ∧
    decode 0x40000000 = .ok .endFrame ∧ decode 0x5FFFFFFF = .ok (.read 65535 4095) ∧
    decode 0x6FFFFFFF = .ok (.write 65535 4095) := by decide

theorem witness_DecoderMatchesOpcodeTable :
    (⟨.read, 0x50000000, 0xF0000000⟩ : OpcodeRow) ∈ opcodeTable ∧
    (⟨.read, 0x50000000, 0xF0000000⟩ : OpcodeRow).spelledBy 0x5FFFFFFF = true := by decide

theorem witness_IllegalWordsFault :
    (issuing 0 start).moves = [.host .issue] ∧ (issuing 0 start).program = [0] ∧ (issuing 0 start).phase = .ready ∧
    decode 0 = .error .noSuchOpcode ∧ decode 0xFFFFFFFF = .error .noSuchOpcode ∧
    decode 0x10010D01 = .error .reservedBitsSet := by decide

theorem witness_AssemblerWords : 255 < 256 ∧ 65535 < 65536 ∧ 4095 < 4096 ∧
    (Instr.sendBreak 256 0).wf = false ∧ (Instr.setAutoBaud 65536 4096).wf = false := by decide

/-! ## Witnesses: steps and agents -/

theorem witness_StepRunsIssuedCommand :
    (issuing 0x1000FFFF start).moves = [.host .issue] ∧ (issuing 0x1000FFFF start).program = [0x1000FFFF] ∧
    (issuing 0x1000FFFF start).phase = .ready ∧ decode 0x1000FFFF = .ok (.sendBreak 255 255) ∧
    (Instr.sendBreak 255 255).wf = true := by decide

theorem witness_StepContinuesCommand_block :
    (taking .block (during 0x20000000 .cbScan .idle)).moves = [.block] ∧
    (taking .block (during 0x20000000 .cbScan .idle)).InProgress ∧
    decode (taking .block (during 0x20000000 .cbScan .idle)).cmd = .ok .checkBreak := by decide

theorem witness_StepContinuesCommand_transport :
    (taking (.transport quiet) (during 0x30030000 .abDetect .inFrame)).phase = .abDetect ∧
    decode (during 0x30030000 .abDetect .inFrame).cmd = .ok (.setAutoBaud 0 3) ∧
    (taking (.transport quiet) (during 0x50010000 .xportWait .inFrame)).phase = .xportWait ∧
    decode (during 0x50010000 .xportWait .inFrame).cmd = .ok (.read 0 1) := by decide

theorem witness_AgentWithoutMoveChangesNothing :
    (issuing 0 (during 0x20000000 .cbScan .idle)).phase ≠ .ready ∧
    ({ issuing 0 start with program := [] } : State).program = [] ∧
    (taking .block start).phase = .ready ∧ (taking .block { start with phase := .halted }).phase = .halted ∧
    (taking (.transport quiet) (during 0x30030000 .abDrain .inFrame)).phase ≠ .abDetect ∧
    (taking (.transport quiet) (during 0x30030000 .abDrain .inFrame)).phase ≠ .xportWait := by decide

theorem witness_HostWritesInReady :
    (taking (.host (.setTicksPerBit 0)) start).phase = .ready ∧
    (taking (.host (.writeCand 65535 0xFFFFFFFF)) start).phase = .ready ∧
    (taking (.host (.writeBuf 65535 255)) start).phase = .ready ∧
    (taking (.host (.writeBuf 65535 255)) start).moves = [.host (.writeBuf 65535 255)] := by decide

/-- The words of the clauses of `IssueChecksInOrder`, the ranges one past the end of their space. -/
theorem witness_IssueChecksInOrder :
    (issuing 0 start).phase = .ready ∧ (issuing 0 start).program = [0] ∧ decode 0x10000D01 = .ok (.sendBreak 13 1) ∧
    decode 0x20000000 = .ok .checkBreak ∧ decode 0x30000000 = .ok (.setAutoBaud 0 0) ∧
    decode 0x3002FFFF = .ok (.setAutoBaud 65535 2) ∧ 65536 < 65535 + 2 ∧
    decode 0x5002FFFF = .ok (.read 65535 2) ∧ decode 0x6002FFFF = .ok (.write 65535 2) ∧
    start.frameState = .idle ∧ ({ start with frameState := .inFrame } : State).frameState = .inFrame := by decide

theorem witness_HaltedIsLeftOnlyByReset :
    (taking .block { start with phase := .halted, cause := 3 }).phase = .halted ∧
    (taking .block { start with phase := .halted, cause := 3 }).nextMove.1 ≠ .reset ∧
    (taking .reset start).nextMove.1 = .reset ∧
    after (step (taking .block { start with phase := .halted, cause := 3 })) (fun t => t.cause) = some 3 := by decide

/-- A fault in `READY` (cause 3), in the scan (cause 6) and in the selection (cause 7). -/
theorem witness_FaultEntryIsPrecise :
    after (step (issuing 0x50010000 start)) (fun t => (t.phase, t.cause)) = some (.halted, 3) ∧
    after (step (taking .block { during 0x20000000 .cbScan .idle with tpb := 0, q := [5] }))
      (fun t => (t.phase, t.cause)) = some (.halted, 6) ∧
    after (step (taking .block { during 0x30010000 .abSelect .inFrame with tpb := 1, cand := [(0, 0)] }))
      (fun t => (t.phase, t.cause)) = some (.halted, 7) := by decide

theorem witness_ResetStepValues :
    (taking .reset { start with phase := .halted, cause := 7 }).nextMove.1 = .reset := by decide

theorem confX_legal : confX.Legal := by decide

/-- The invariant holds after reset under configuration `X`. -/
theorem start_inv : start.Inv where
  halted_iff := by decide
  drain_iff := by decide
  autobaud := by decide
  scan_idle := by decide
  cmd_agrees := rfl
  cause_code := by decide
  fault_cmd := by decide
  queue_fits := rfl
  cand_wf := rfl
  buf_wf := rfl
  par_legal := confX_legal
  no_answer := rfl

/-- The invariant says nothing of the moves and the program. -/
theorem issuing_inv {w : CmdWord} {s : State} (h : s.Inv) : (issuing w s).Inv :=
  ⟨h.halted_iff, h.drain_iff, h.autobaud, h.scan_idle, h.cmd_agrees, h.cause_code, h.fault_cmd, h.queue_fits, h.cand_wf,
    h.buf_wf, h.par_legal, h.no_answer⟩

theorem witness_StepKeepsInvariant : (issuing 0x20000000 start).Inv ∧
    after (step (issuing 0x20000000 start)) (fun t => t.phase) = some .cbScan :=
  ⟨issuing_inv start_inv, by decide⟩

theorem witness_StepLeavesChecksTrue : (issuing 0x50010000 start).Inv ∧
    after (step (issuing 0x50010000 start)) (fun t => t.phase) = some .halted :=
  ⟨issuing_inv start_inv, by decide⟩

/-- A selection with a list the host never wrote. -/
def selecting : State :=
  { during 0x30010000 .abSelect .inFrame with tpb := 1, savedTpb := 104, raw := 9600, moves := [.block] }

theorem selecting_inv : selecting.Inv where
  halted_iff := by decide
  drain_iff := by decide
  autobaud := by decide
  scan_idle := by decide
  cmd_agrees := by decide
  cause_code := by decide
  fault_cmd := by decide
  queue_fits := rfl
  cand_wf := rfl
  buf_wf := rfl
  par_legal := confX_legal
  no_answer := rfl

/-- A `write` waiting for the transport over a byte the host never wrote. -/
def writing : State :=
  { during 0x60010000 .xportWait .inFrame with moves := [.transport quiet] }

theorem writing_inv : writing.Inv where
  halted_iff := by decide
  drain_iff := by decide
  autobaud := by decide
  scan_idle := by decide
  cmd_agrees := by decide
  cause_code := by decide
  fault_cmd := by decide
  queue_fits := rfl
  cand_wf := rfl
  buf_wf := rfl
  par_legal := confX_legal
  no_answer := rfl

/-- A selection over a candidate and a `write` of a byte nobody wrote meet the invariant; and the step goes on. -/
theorem witness_StepAlwaysAnswers : selecting.Inv ∧ writing.Inv ∧
    after (step writing) (fun t => (t.phase, t.result)) = some (.ready, 0) ∧
    ∃ t, step selecting = .next t :=
  ⟨selecting_inv, writing_inv, rfl, _, rfl⟩

/-! ## Witnesses: the queue -/

/-- A full queue, a queue with one place left, and a producer that has faulted. -/
theorem witness_ProducerPush :
    (taking (.push 9) { start with par := { confX with qcap := some 2 }, q := [1] }).q.length < 2 ∧
    (taking (.push 9) { start with par := { confX with qcap := some 2 }, q := [1] }).queueOverflow = false ∧
    2 ≤ (taking (.push 9) { start with par := { confX with qcap := some 2 }, q := [1, 2] }).q.length ∧
    (taking (.push 9) { start with queueOverflow := true }).queueOverflow = true ∧
    (taking (.push 9) start).moves = [.push 9] := by decide

theorem witness_QueueLosesOnlyItsOldest :
    after (exec .checkBreak { during 0x20000000 .cbScan .idle with q := [5, 6] }) (fun t => t.q) = some [6] ∧
    ({ start with q := [5, 6] } : State).edgeAvailable = true ∧ start.edgeAvailable = false := by decide

/-! ## Witnesses: the interval decoder -/

theorem witness_BitCountRounds : 0 < 1 ∧ 0 < 104 ∧ 2 * (1300 % 104) = 104 := by decide

theorem witness_BitCountRange : 4294967295 < 2 ^ 32 ∧ 0 < 1 ∧ 1300 ≤ 1301 := by decide

theorem witness_BreakThreshold : 0 < 1 ∧ 1 ≤ 1 ∧ 1 ≤ 13 := by decide

/-- The longest admitted distance, and the shortest, with the line rising and falling. -/
theorem witness_MeasuredInterval :
    Transition.Follows ⟨4294967296, true⟩ ⟨1, false⟩ ∧ Transition.Follows ⟨7, false⟩ ⟨7, true⟩ := by decide

/-- A break of exactly 13 bit-times, and one of two ticks below the least that can be counted as 13 bits less one. -/
theorem witness_TrueBreakIsDetected :
    (⟨10000, false⟩ : Transition).word = 10000 ∧ (⟨11352, true⟩ : Transition).word = 11353 ∧
    Transition.Follows ⟨11352, true⟩ ⟨10000, false⟩ ∧ 11352 - 10000 + 2 < 2 ^ 32 ∧
    13 * ({ during 0x20000000 .cbScan .idle with lastEdge := 10000, q := [11353] } : State).tpb.toNat ≤ 11352 - 10000 ∧
    (⟨11298, true⟩ : Transition).word = 11299 ∧ Transition.Follows ⟨11298, true⟩ ⟨10000, false⟩ ∧
    11298 - 10000 + 2 < 12 * start.tpb.toNat + start.tpb.toNat / 2 + 1 ∧ start.tpb ≠ 0 ∧
    start.par.invert = false := by decide

/-! ## Witnesses: checkBreak -/

theorem witness_CheckBreakSteps_issue : start.phase = .ready ∧ start.frameState = .idle ∧
    (during 0x20000000 .cbScan .idle).phase = .cbScan ∧ (during 0x20000000 .cbScan .idle).q = [] := by decide

/-- The three clauses of a scan with an event: `TPB` 0; a break of 13 bits; an interval of 12 bits and a recessive one. -/
theorem witness_CheckBreakSteps_scan :
    ({ during 0x20000000 .cbScan .idle with tpb := 0, q := [5] } : State).tpb = 0 ∧
    start.tpb ≠ 0 ∧ ((10000 : EventWord).getLsbD 0 ^^ confX.invert) = false ∧
    13 ≤ bitCount ((11301 : EventWord) - 10000).toNat start.tpb.toNat ∧
    ¬ 13 ≤ bitCount ((11300 : EventWord) - 10000).toNat start.tpb.toNat ∧
    ((20001 : EventWord).getLsbD 0 ^^ confX.invert) ≠ false := by decide

/-- VB12: the second interval is the break. -/
theorem witness_CheckBreakFindsFirstBreak :
    let s : State := { start with
      q := [10000, 11353, 11456, 11561], program := [0x20000000],
      moves := .host .issue :: (List.replicate 2 .block ++ []) }
    s.phase = .ready ∧ s.frameState = .idle ∧ s.tpb ≠ 0 ∧
    s.program = [0x20000000] ∧ s.moves = .host .issue :: (List.replicate (1 + 1) .block ++ []) ∧
    s.breakAt 1 = true ∧ ∀ k, k < 1 → s.breakAt k = false := by decide

/-- VB13: three intervals, none a break; and no index beyond the queue is one. -/
theorem witness_CheckBreakWithoutBreak :
    let s : State := { start with
      lastEdge := 10000, q := [10105, 10208, 10313], program := [0x20000000],
      moves := .host .issue :: (List.replicate 4 .block ++ []) }
    s.phase = .ready ∧ s.frameState = .idle ∧ s.tpb ≠ 0 ∧
    s.program = [0x20000000] ∧ s.moves = .host .issue :: (List.replicate (s.q.length + 1) .block ++ []) ∧
    ∀ k, s.breakAt k = false := by
  refine ⟨by decide, by decide, by decide, by decide, by decide, fun k => ?_⟩
  match k with
  | 0 => decide
  | 1 => decide
  | 2 => decide
  | 3 => decide
  | k + 4 => rfl

theorem witness_PushCommutesWithScan :
    let s : State := { during 0x20000000 .cbScan .idle with q := [10000] }
    s.phase = .cbScan ∧ decode s.cmd = .ok .checkBreak ∧ s.q ≠ [] ∧ s.par.qcap = none := by decide

/-- A next state of each kind: a detection, a skipped interval, a fault at issue. -/
theorem witness_CheckBreakFrame :
    after (exec .checkBreak { during 0x20000000 .cbScan .idle with lastEdge := 10000, q := [11353] })
      (fun t => (t.frameState, t.phase)) = some (.inFrame, .ready) ∧
    after (exec .checkBreak { during 0x20000000 .cbScan .idle with q := [11353] }) (fun t => t.phase) = some .cbScan ∧
    after (exec .checkBreak { start with frameState := .inFrame }) (fun t => t.phase) = some .halted := by decide

/-! ## Witnesses: sendBreak, endFrame, read, write -/

theorem witness_SendBreakSteps : start.phase = .ready ∧ start.frameState = .idle ∧
    (during 0x10000D01 .xportWait .idle).phase = .xportWait ∧ (during 0x10000D01 .xportWait .idle).answer = none ∧
    ({ during 0x10000D01 .xportWait .idle with answer := some quiet } : State).answer = some quiet := by decide

theorem witness_SendBreakFrame :
    after (exec (.sendBreak 0 0) { during 0x10000000 .xportWait .idle with answer := some quiet })
      (fun t => (t.frameState, t.phase)) = some (.inFrame, .ready) ∧
    after (exec (.sendBreak 0 0) start) (fun t => t.phase) = some .xportWait ∧
    after (exec (.sendBreak 0 0) { start with frameState := .inFrame }) (fun t => t.phase) = some .halted := by decide

theorem witness_EndFrameSteps : field 0x40000001 31 28 = 4 ∧ field 0x40000001 27 0 ≠ 0 ∧
    start.phase = .ready ∧ ({ start with phase := .halted, cause := 3 } : State).phase = .halted ∧
    after (exec .endFrame start) (fun t => t.phase) = some .ready := by decide

/-- The greatest range, ending at the end of `BUF`, and the empty one there; more bytes offered than asked for. -/
theorem witness_ReadStoresReceivedBytes : 61441 + 4095 ≤ 65536 ∧ 65536 + 0 ≤ 65536 ∧
    ({ start with frameState := .inFrame } : State).frameState = .inFrame ∧
    (during 0x50010000 .xportWait .inFrame).answer = none ∧
    ({ during 0x50010000 .xportWait .inFrame with answer := some { quiet with bytes := [1, 2] } } : State).answer =
      some { quiet with bytes := [1, 2] } := by decide

theorem witness_ReadFrame :
    after (exec (.read 0 1) { during 0x50010000 .xportWait .inFrame with
      answer := some { quiet with bytes := [1, 2] } }) (fun t => t.buf) = some [(0, 1)] ∧
    after (exec (.read 0 1) { start with frameState := .inFrame }) (fun t => t.phase) = some .xportWait ∧
    after (exec (.read 0 1) start) (fun t => t.phase) = some .halted := by decide

theorem witness_WriteAnswersAcceptedCount : 65534 + 2 ≤ 65536 ∧
    let s : State := { during 0x6002FFFE .xportWait .inFrame with
      buf := [(65534, 1)], answer := some { quiet with count := 3 } }
    s.phase = .xportWait ∧ s.answer = some { quiet with count := 3 } ∧ s.buf.read 65534 = some 1 ∧
    s.buf.read 65535 = none := by decide

theorem witness_WriteGoesOnOverUnwrittenByte :
    let s : State := { during 0x6002FFFE .xportWait .inFrame with buf := [(65534, 1)], answer := some quiet }
    s.phase = .xportWait ∧ s.answer = some quiet ∧ 65534 + 2 ≤ 65536 ∧ 1 < 2 ∧ s.buf.read (65534 + 1) = none := by
  decide

theorem witness_WriteFrame :
    after (exec (.write 0 0) { during 0x60000000 .xportWait .inFrame with answer := some quiet })
      (fun t => (t.phase, t.result)) = some (.ready, 0) ∧
    after (exec (.write 0 0) { start with frameState := .inFrame }) (fun t => t.phase) = some .xportWait ∧
    after (exec (.write 0 0) start) (fun t => t.phase) = some .halted := by decide

/-- The addresses next to a stored range, on either side. -/
theorem witness_RangeReadsBack : 9 < 10 ∧ 10 + [(1 : Byte), 2].length ≤ 12 := by decide

/-! ## Witnesses: setAutoBaud -/

/-- The list that ends at the end of `CAND`; both answers of the primitive. -/
theorem witness_AutobaudIssueAndDetect : ({ start with frameState := .inFrame } : State).phase = .ready ∧ 1 ≠ 0 ∧
    65535 + 1 ≤ 65536 ∧ (during 0x3001FFFF .abDetect .inFrame).phase = .abDetect ∧
    (during 0x3001FFFF .abDetect .inFrame).answer = none ∧ quiet.raw = 0 ∧
    ({ quiet with raw := 0xFFFFFFFF } : Answer).raw ≠ 0 := by decide

theorem witness_AutobaudDrain : (during 0x30030000 .abDrain .inFrame).phase = .abDrain ∧
    (during 0x30030000 .abDrain .inFrame).q = [] ∧
    ({ during 0x30030000 .abDrain .inFrame with drainLeft := 1, q := [5] } : State).drainLeft = 1 ∧
    ({ during 0x30030000 .abDrain .inFrame with drainLeft := 2, q := [5, 6] } : State).drainLeft ≠ 1 := by decide

/-- The outcomes at their boundaries: 20001 is above the ceiling, 20000 and 1 are committed, 0 faults. -/
theorem witness_AutobaudSelect :
    (∀ c ∈ [(20001 : Baud), 20000, 1, 0],
      let s : State := { during 0x30010000 .abSelect .inFrame with cand := [(0, c)] }
      s.phase = .abSelect ∧ s.CandIs 0 [c] ∧ 0 + 1 ≤ 65536 ∧ nearestCandidate s.raw [c] = some c) ∧
    20000 < (20001 : Baud).toNat ∧ (20000 : Baud).toNat ≤ 20000 ∧ 1 ≤ (1 : Baud).toNat := by
  refine ⟨?_, by decide⟩
  intro c hc
  fin_cases hc <;> exact ⟨rfl, rfl, by decide, rfl⟩

theorem witness_AutobaudGoesOnOverUnwrittenCandidate :
    let s : State := { during 0x3002FFFE .abSelect .inFrame with cand := [(65534, 9600)] }
    s.phase = .abSelect ∧ 65534 + 2 ≤ 65536 ∧ 1 < 2 ∧ s.cand.read (65534 + 1) = none := by decide

theorem witness_SelectionIsFirstMinimum : [(4800 : Baud), 9600, 19200] ≠ [] ∧ [(9600 : Baud), 9600] ≠ [] := by decide

theorem witness_CommitRoundsHalfUp : 1 ≤ 1 ∧ 1 ≤ 20 ∧ confX.Legal ∧ 1 ≤ (20000 : Baud).toNat ∧
    (20000 : Baud).toNat ≤ 20000 := by decide

/-- P4 part a. -/
theorem witness_DetectionFailureRestoresTpb :
    let s : State := { start with
      frameState := .inFrame, q := [11456, 11561], program := [0x30030000],
      moves := [.host .issue, .transport { quiet with consumed := 2 }] }
    s.phase = .ready ∧ s.frameState = .inFrame ∧ decode 0x30030000 = .ok (.setAutoBaud 0 3) ∧ 3 ≠ 0 ∧
    0 + 3 ≤ 65536 ∧ ({ quiet with consumed := 2 } : Answer).raw = 0 ∧
    s.program = [0x30030000] ∧ s.moves = [.host .issue, .transport { quiet with consumed := 2 }] := by decide

/-- P1 from its step 4 on, and the same with a list of one candidate at each boundary: 20001 is above the ceiling, 20000
and 1 are committed, 0 faults. -/
theorem witness_AutobaudWholeCommand :
    let a : Answer := { quiet with consumed := 1, raw := 9615 }
    let s : State := { start with
      frameState := .inFrame, q := [12080, 12185, 12288, 12393], cand := [(0, 4800), (1, 9600), (2, 19200)],
      program := [0x30030000], moves := [.host .issue, .transport a, .block, .block, .block, .block] }
    s.phase = .ready ∧ s.frameState = .inFrame ∧ decode 0x30030000 = .ok (.setAutoBaud 0 3) ∧
    0 + 3 ≤ 65536 ∧ s.CandIs 0 [4800, 9600, 19200] ∧ a.raw ≠ 0 ∧
    s.q.drop a.consumed = [12185, 12288, 12393] ∧ nearestCandidate a.raw [4800, 9600, 19200] = some 9600 ∧
    decode 0x30010000 = .ok (.setAutoBaud 0 1) ∧
    ∀ c ∈ [(20001 : Baud), 20000, 1, 0],
      ({ s with cand := [(0, c)], program := [0x30010000] } : State).CandIs 0 [c] ∧
      nearestCandidate a.raw [c] = some c := by
  refine ⟨rfl, rfl, rfl, by decide, rfl, by decide, rfl, rfl, rfl, ?_⟩
  intro c hc
  fin_cases hc <;> exact ⟨rfl, rfl⟩

theorem witness_DrainWaitsForEver :
    let s : State := { during 0x30030000 .abDrain .inFrame with
      drainLeft := 2, moves := List.replicate 5 .block ++ [.push 3] }
    s.phase = .abDrain ∧ s.q = [] ∧ decode s.cmd = .ok (.setAutoBaud 0 3) ∧
    s.moves = List.replicate 5 .block ++ [.push 3] := by decide

theorem witness_DrainedEventsHaveNoInfluence :
    let s : State := { during 0x30030000 .abDrain .inFrame with
      drainLeft := 3, moves := [.block, .block, .block, .block] }
    s.phase = .abDrain ∧ s.drainLeft = 3 ∧ decode s.cmd = .ok (.setAutoBaud 0 3) ∧
    s.moves = [.block, .block, .block, .block] := by decide

/-- A next state from each micro-step. -/
theorem witness_AutobaudFrame :
    after (exec (.setAutoBaud 0 1) { start with frameState := .inFrame }) (fun t => t.phase) = some .abDetect ∧
    after (exec (.setAutoBaud 0 1) { during 0x30010000 .abDetect .inFrame with answer := some quiet })
      (fun t => t.phase) = some .ready ∧
    after (exec (.setAutoBaud 0 1) { during 0x30010000 .abDrain .inFrame with drainLeft := 1, q := [5] })
      (fun t => t.phase) = some .abSelect ∧
    after (exec (.setAutoBaud 0 1) { during 0x30010000 .abSelect .inFrame with cand := [(0, 0)] })
      (fun t => t.phase) = some .halted := by decide

/-! ## Witnesses: rules of the whole machine -/

/-- A step that changes the frame state, by each of its writers. -/
theorem witness_FrameStateWriters :
    after (step (taking (.transport quiet) (during 0x10000D01 .xportWait .idle))) (fun t => t.frameState) =
      some .inFrame ∧
    after (step (taking .block { during 0x20000000 .cbScan .idle with lastEdge := 10000, q := [11353] }))
      (fun t => t.frameState) = some .inFrame ∧
    after (step (issuing 0x40000000 { start with frameState := .inFrame })) (fun t => t.frameState) =
      some .idle ∧
    after (step (taking .reset { start with frameState := .inFrame })) (fun t => t.frameState) = some .idle := by decide

/-- A step that changes `TPB`: the host's, the override, the restore, and reset. -/
theorem witness_TpbWriters :
    after (step (taking (.host (.setTicksPerBit 0)) start)) (fun t => t.tpb) = some 0 ∧
    after (step (issuing 0x30010000 { start with frameState := .inFrame })) (fun t => t.tpb) = some 1 ∧
    after (step (taking (.transport quiet) { during 0x30010000 .abDetect .inFrame with tpb := 1, savedTpb := 104 }))
      (fun t => t.tpb) = some 104 ∧
    after (step (taking .reset { start with tpb := 1 })) (fun t => t.tpb) = some 104 := by decide

theorem witness_OperandMemoryWriters :
    after (step (taking (.host (.writeCand 3 4)) start)) (fun t => t.cand) = some [(3, 4)] ∧
    after (step (taking (.host (.writeBuf 3 4)) start)) (fun t => t.buf) = some [(3, 4)] ∧
    after (step (taking (.transport { quiet with bytes := [9] }) (during 0x50010000 .xportWait .inFrame)))
      (fun t => t.buf) = some [(0, 9)] := by decide

theorem witness_ConstantsAndHistory :
    after (step (taking (.push 5) { start with queueOverflow := true })) (fun t => t.queueOverflow) = some true := by
  decide

/-- An issue, which changes the program, and a reset, which does. -/
theorem witness_ProgramIsIssuedInOrder :
    after (step (issuing 0x20000000 start)) (fun t => (t.program, t.cmd, t.trace)) =
      some ([], 0x20000000, [.reset, .issue 0x20000000]) ∧
    after (step (taking .reset { start with program := [5], nextPrograms := [[6], [7]] }))
      (fun t => (t.program, t.nextPrograms)) = some ([6], [[7]]) := by decide

/-- A run that is over: `endFrame` was the program's only word, and has completed. -/
def ended : State :=
  { start with program := [], nextPrograms := [], trace := [.reset, .issue 0x40000000, .done .endFrame none] }

/-- A run that is over, and steps on; one that ends with the `Done` of its last command; states that are no end; a reset
with no list left, which keeps an end, and one with a list left, which starts a new run. -/
theorem witness_RunEndsWithItsLastCommand :
    ended.runOver = true ∧ (taking (.push 5) ended).nextMove.1 ≠ .reset ∧
    after (step (taking (.push 5) ended)) (fun t => t.runOver) = some true ∧
    (issuing 0x40000000 start).runOver = false ∧
    after (step (issuing 0x40000000 start)) (fun t => (t.runOver, t.trace.getLast?)) =
      some (true, some (.done .endFrame none)) ∧
    ({ start with phase := .halted } : State).runOver = false ∧
    ({ during 0x30010000 .abDrain .inFrame with program := [] } : State).Holds ∧
    (taking .reset ended).nextMove.1 = .reset ∧
    after (step (taking .reset ended)) (fun t => (t.runOver, t.runEnded)) = some (true, true) ∧
    after (step (taking .reset { ended with nextPrograms := [[5]] })) (fun t => t.runOver) = some false := by decide

/-- R13: a reset that leaves a word unissued, or abandons the last command, ends no run, with no list left and with an
empty one. -/
theorem test_reset_ends_no_run :
    after (step (taking .reset { start with program := [5], nextPrograms := [] }))
      (fun t => (t.phase, t.program, t.runOver)) = some (.ready, [], false) ∧
    after (step (taking .reset { start with program := [5], nextPrograms := [[]] })) (fun t => t.runOver) = some false ∧
    after (step (taking .reset { during 0x30010000 .abDrain .inFrame with
      program := [], nextPrograms := [], trace := [.reset, .issue 0x30010000] }))
      (fun t => (t.phase, t.program, t.runOver)) = some (.ready, [], false) := by decide

theorem witness_ResultWriters :
    after (step (taking (.transport { quiet with bytes := [9] }) (during 0x50010000 .xportWait .inFrame)))
      (fun t => (t.phase, t.result)) = some (.ready, 1) ∧
    after (step (taking .reset { start with result := 7 })) (fun t => t.result) = some 0 := by decide

theorem witness_TickConversions : 1000000 ≤ confX.tps := by decide

end Sys2Proof.Tests
end

section
/-! PROOF. Every step keeps `State.Inv` (spec/10_state.md R41): one rule per operation of the state, then the steps of
each command, with and without an answer of the transport, then `step`. -/

namespace Sys2Proof.Machine

section Rules

variable {s t : State} {i : Instr}

/-! ## Leaving the invariant and coming back to it -/

/-- Outside `HALTED` there is no cause (R30). -/
theorem State.Inv.cause_eq_zero (h : s.Inv) (hp : s.phase ≠ .halted) : s.cause = 0 :=
  by_contra fun hc => hp (h.halted_iff.2 hc)

/-- Outside `AB_DRAIN` nothing is left to drain (R24). -/
theorem State.Inv.drainLeft_eq_zero (h : s.Inv) (hp : s.phase ≠ .abDrain) : s.drainLeft = 0 :=
  by_contra fun hd => hp (h.drain_iff.1 hd)

/-- What the invariant asks of a state in `READY`: no fault recorded, nothing left to drain, the queue and the memories
within their spaces. No phase is named, so an operation that only moves the phase keeps it. -/
structure State.Quiet (s : State) : Prop where
  cause : s.cause = 0
  fault_cmd : s.faultCmd = 0
  drain : s.drainLeft = 0
  queue_fits : s.queueFits = true
  cand_wf : s.cand.wf Config.candWords = true
  buf_wf : s.buf.wf Config.bufBytes = true
  par_legal : s.par.Legal
  no_answer : s.answer = none

theorem State.Inv.quiet (h : s.Inv) (hhalt : s.phase ≠ .halted) (hdrain : s.phase ≠ .abDrain) : s.Quiet :=
  { h with
    cause := h.cause_eq_zero hhalt
    fault_cmd := by rw [h.fault_cmd, if_pos (h.cause_eq_zero hhalt)]
    drain := h.drainLeft_eq_zero hdrain }

theorem State.Quiet.inv (h : s.Quiet) (hp : s.phase = .ready) : s.Inv :=
  { h with
    halted_iff := by simp [hp, h.cause]
    drain_iff := by simp [hp, h.drain]
    autobaud := by simp [hp]
    scan_idle := by simp [hp]
    cmd_agrees := by simp [State.cmdAgrees, hp]
    cause_code := by simp [h.cause]
    fault_cmd := by rw [h.fault_cmd, if_pos h.cause] }

/-- A queue that does not grow stays within its capacity (R57). -/
theorem State.queueFits_of_length_le (h : s.queueFits = true) (hpar : t.par = s.par)
    (hq : t.q.length ≤ s.q.length) : t.queueFits = true := by
  unfold State.queueFits at *
  rw [hpar]
  cases hc : s.par.qcap with
  | none => rfl
  | some c =>
    simp only [hc, decide_eq_true_eq] at h ⊢
    omega

/-- A delegated call leaves a quiet state quiet, and uses up the answer that stood for it (R173, R179). -/
theorem State.Quiet.delegate (h : s.Quiet) (a : Answer) (c : Call) :
    (({ s with answer := some a } : State).delegate a c).Quiet :=
  { h with
    queue_fits := State.queueFits_of_length_le h.queue_fits rfl (by simp)
    no_answer := rfl }

/-! ## Operations of the agents -/

theorem State.Inv.withMoves (h : s.Inv) (ms : List Move) (d : Nat) : ({ s with moves := ms, drawn := d } : State).Inv :=
  { h with }

theorem State.Inv.applyReset (h : s.Inv) : s.applyReset.Inv := by
  refine State.Quiet.inv ?_ rfl
  refine { h with cause := rfl, fault_cmd := rfl, drain := rfl, queue_fits := ?_, no_answer := rfl }
  exact State.queueFits_of_length_le h.queue_fits rfl (by simp)

/-- A push onto a queue with room fills at most its last place (R57). -/
theorem State.Inv.pushEdge (h : s.Inv) (e : EventWord) : (s.pushEdge e).Inv := by
  rcases s.pushEdge_cases e with ⟨_, ht⟩ | ⟨_, _, ht⟩ | ⟨_, hroom, ht⟩ <;> rw [ht]
  · exact h
  · exact { h with }
  · refine { h with queue_fits := ?_ }
    unfold State.queueFits State.queueFull at *
    cases hc : s.par.qcap <;> simp_all

/-- The issue of a word in `READY` latches it and records it (R92). -/
theorem State.Inv.latch (h : s.Inv) (hp : s.phase = .ready) (w : CmdWord) (later : List CmdWord) :
    (({ s with program := later, cmd := w } : State).record (.issue w)).Inv :=
  State.Quiet.inv { h.quiet (by simp [hp]) (by simp [hp]) with } hp

theorem Cause.code_ne_zero (c : Cause) : c.code ≠ 0 := by cases c <;> decide

theorem Cause.code_lt (c : Cause) : c.code.toNat < 8 := by cases c <;> decide

/-- Taking a fault outside the drain (R166). -/
theorem State.Inv.raise (h : s.Inv) (hp : s.phase ≠ .abDrain) (c : Cause) : (s.raise c).Inv :=
  { h with
    halted_iff := iff_of_true rfl c.code_ne_zero
    drain_iff := by simp [h.drainLeft_eq_zero hp]
    autobaud := by simp
    scan_idle := by simp
    cmd_agrees := rfl
    cause_code := c.code_lt
    fault_cmd := (if_neg c.code_ne_zero).symm }

/-- The block's pop in the phase it stands in (R53). -/
theorem State.Inv.pop (h : s.Inv) {e : EventWord} {rest : List EventWord} (hq : s.q = e :: rest) :
    ({ s with q := rest, lastEdge := e, trace := s.trace ++ [.pop e] } : State).Inv :=
  { h with queue_fits := State.queueFits_of_length_le h.queue_fits rfl (by simp [hq]) }

/-! ## The steps of a command without an answer of the transport -/

/-- An issued command that passed its checks goes on to the scan, or to wait for the transport. -/
theorem State.Inv.goPhase (h : s.Inv) (hp : s.phase = .ready) {p : Phase} (hto : p = .cbScan ∨ p = .xportWait)
    (hscan : p = .cbScan → s.frameState = .idle) (hcmd : (s.goPhase p).cmdAgrees = true) : (s.goPhase p).Inv :=
  { h with
    halted_iff := by rcases hto with rfl | rfl <;> simp [h.cause_eq_zero, hp]
    drain_iff := by rcases hto with rfl | rfl <;> simp [h.drainLeft_eq_zero, hp]
    autobaud := by rcases hto with rfl | rfl <;> simp
    scan_idle := hscan
    cmd_agrees := hcmd }

theorem execSendBreak_keeps_inv {b d : Nat} (h : s.Inv) (hd : decode s.cmd = .ok (.sendBreak b d))
    (ht : execSendBreak b d s = .next t) : t.Inv := by
  rcases execSendBreak_cases ht with ⟨hp, c, _, rfl⟩ | ⟨hp, hf, rfl⟩ | ⟨a, _, ha, _⟩ | ⟨_, _, rfl⟩
  · exact h.raise (by simp [hp]) c
  · obtain ⟨hframe, _, _⟩ := issueFault_eq_none.1 hf
    exact h.goPhase hp (.inr rfl) (by simp) (by simp [State.cmdAgrees, hd, hframe .idle rfl])
  · simp [h.no_answer] at ha
  · exact h

theorem execEndFrame_keeps_inv (h : s.Inv) (ht : execEndFrame s = .next t) : t.Inv := by
  rcases execEndFrame_cases ht with ⟨hp, rfl⟩ | ⟨_, rfl⟩
  · exact State.Quiet.inv { h.quiet (by simp [hp]) (by simp [hp]) with } rfl
  · exact h

theorem execRead_keeps_inv {addr size : Nat} (h : s.Inv) (hd : decode s.cmd = .ok (.read addr size))
    (ht : execRead addr size s = .next t) : t.Inv := by
  rcases execRead_cases ht with ⟨hp, c, _, rfl⟩ | ⟨hp, hf, rfl⟩ | ⟨a, _, ha, _⟩ | ⟨_, _, rfl⟩
  · exact h.raise (by simp [hp]) c
  · obtain ⟨hframe, _, hrange⟩ := issueFault_eq_none.1 hf
    exact h.goPhase hp (.inr rfl) (by simp)
      (by simp [State.cmdAgrees, hd, hframe .inFrame rfl, bufRangeOk, hrange addr size (.inl rfl)])
  · simp [h.no_answer] at ha
  · exact h

theorem execWrite_keeps_inv {addr size : Nat} (h : s.Inv) (hd : decode s.cmd = .ok (.write addr size))
    (ht : execWrite addr size s = .next t) : t.Inv := by
  rcases execWrite_cases ht with ⟨hp, c, _, rfl⟩ | ⟨hp, hf, rfl⟩ | ⟨a, _, ha, _⟩ | ⟨_, _, rfl⟩
  · exact h.raise (by simp [hp]) c
  · obtain ⟨hframe, _, hrange⟩ := issueFault_eq_none.1 hf
    exact h.goPhase hp (.inr rfl) (by simp)
      (by simp [State.cmdAgrees, hd, hframe .inFrame rfl, bufRangeOk, hrange addr size (.inr rfl)])
  · simp [h.no_answer] at ha
  · exact h

/-- The judgement of an interval in the scan (R125): a fault, a break, or the scan goes on as it was. -/
theorem State.Inv.judgeInterval (h : s.Inv) (hp : s.phase = .cbScan) (p e : EventWord) :
    (s.judgeInterval p e).Inv := by
  rcases s.judgeInterval_cases p e with ⟨_, ht⟩ | ⟨_, _, ht⟩ | ⟨_, _, ht⟩ <;> rw [ht]
  · exact h.raise (by simp [hp]) _
  · exact State.Quiet.inv { h.quiet (by simp [hp]) (by simp [hp]) with } rfl
  · rwa [State.goPhase, ← hp]

theorem execCheckBreak_keeps_inv (h : s.Inv) (hd : decode s.cmd = .ok .checkBreak)
    (ht : execCheckBreak s = .next t) : t.Inv := by
  rcases execCheckBreak_cases ht with
    ⟨hp, c, _, rfl⟩ | ⟨hp, hf, rfl⟩ | ⟨hp, _, rfl⟩ | ⟨e, rest, hp, hq, rfl⟩ | ⟨_, _, rfl⟩
  · exact h.raise (by simp [hp]) c
  · obtain ⟨hframe, _, _⟩ := issueFault_eq_none.1 hf
    exact h.goPhase hp (.inl rfl) (fun _ => hframe .idle rfl) (by simp [State.cmdAgrees, hd])
  · exact State.Quiet.inv { h.quiet (by simp [hp]) (by simp [hp]) with } rfl
  · exact (h.pop hq).judgeInterval hp _ _
  · exact h

/-- The issue of `setAutoBaud` overrides `TPB` with `TPB_REF` (R142). -/
theorem State.Inv.startAutobaud {base n : Nat} (h : s.Inv) (hp : s.phase = .ready)
    (hd : decode s.cmd = .ok (.setAutoBaud base n)) (hf : issueFault (.setAutoBaud base n) s.frameState = none) :
    s.startAutobaud.Inv := by
  obtain ⟨hframe, hlist, _⟩ := issueFault_eq_none.1 hf
  exact { h with
    halted_iff := by simp [State.startAutobaud, h.cause_eq_zero, hp]
    drain_iff := by simp [State.startAutobaud, h.drainLeft_eq_zero, hp]
    autobaud := fun _ => ⟨hframe .inFrame rfl, rfl⟩
    scan_idle := by simp [State.startAutobaud]
    cmd_agrees := by simp [State.cmdAgrees, State.startAutobaud, hd, candRangeOk, hlist base n rfl] }

/-- `setAutoBaud` goes on to its drain or to its selection, with events left to drain exactly in the drain (R142). -/
theorem State.Inv.goAutobaudPhase (h : s.Inv) (hfrom : s.phase = .abDetect ∨ s.phase = .abDrain) {p : Phase}
    (hto : p = .abDrain ∨ p = .abSelect) {left : BitVec 2} (hleft : left ≠ 0 ↔ p = .abDrain) :
    ({ s with phase := p, drainLeft := left } : State).Inv :=
  { h with
    halted_iff := by rcases hfrom with hp | hp <;> rcases hto with rfl | rfl <;> simp [h.cause_eq_zero, hp]
    drain_iff := hleft
    autobaud := fun _ => h.autobaud (hfrom.imp_right .inl)
    scan_idle := by rcases hto with rfl | rfl <;> simp
    cmd_agrees := by
      have hcmd := h.cmd_agrees
      rcases hfrom with hp | hp <;> rcases hto with rfl | rfl <;> simpa only [State.cmdAgrees, hp] using hcmd }

/-- A drain pop (R142): the last one goes on to the selection. -/
theorem State.Inv.drainStep (h : s.Inv) (hp : s.phase = .abDrain) (ht : s.drainStep = some t) : t.Inv := by
  rcases s.drainStep_cases with ⟨_, hs⟩ | ⟨e, rest, hq, hs⟩ <;> rw [hs] at ht <;> cases ht
  exact (h.pop hq).goAutobaudPhase (.inr hp) (by split <;> simp)
    (by split <;> rename_i hleft <;> simpa using hleft)

/-- The settlement of a selected candidate (R142): the command ends, or faults. -/
theorem State.Inv.settle (h : s.Inv) (hp : s.phase = .abSelect) (sel : Baud) : (s.settle sel).Inv := by
  have hquiet := h.quiet (by simp [hp]) (by simp [hp])
  rcases s.settle_cases sel with ⟨_, ht⟩ | ⟨_, ht⟩ | ⟨_, _, ht⟩ <;> rw [ht]
  · exact State.Quiet.inv { hquiet with } rfl
  · exact h.raise (by simp [hp]) _
  · exact State.Quiet.inv { hquiet with } rfl

theorem execSetAutoBaud_keeps_inv {base n : Nat} (h : s.Inv) (hd : decode s.cmd = .ok (.setAutoBaud base n))
    (ht : execSetAutoBaud base n s = .next t) : t.Inv := by
  rcases execSetAutoBaud_cases ht with
    ⟨hp, c, _, rfl⟩ | ⟨hp, hf, rfl⟩ | ⟨a, _, ha, _⟩ | ⟨hp, hs⟩ | ⟨sel, hp, _, _, rfl⟩ | ⟨_, _, _, _, rfl⟩
  · exact h.raise (by simp [hp]) c
  · exact h.startAutobaud hp hd hf
  · simp [h.no_answer] at ha
  · exact h.drainStep hp hs
  · exact h.settle hp sel
  · exact h

/-- A micro-step of the command in `CMD` that the transport does not answer: its issue, or the block's own move. -/
theorem exec_keeps_inv (h : s.Inv) (hd : decode s.cmd = .ok i) (ht : exec i s = .next t) : t.Inv := by
  cases i with
  | sendBreak b d => exact execSendBreak_keeps_inv h hd ht
  | checkBreak => exact execCheckBreak_keeps_inv h hd ht
  | setAutoBaud base n => exact execSetAutoBaud_keeps_inv h hd ht
  | endFrame => exact execEndFrame_keeps_inv h ht
  | read addr size => exact execRead_keeps_inv h hd ht
  | write addr size => exact execWrite_keeps_inv h hd ht

/-! ## The steps of a command that the transport answers (R173) -/

/-- The answer of the raw detection (R142, R144): a failure ends the command, a detection goes on to the drain. -/
theorem State.Inv.detectStep (h : s.Inv) (hp : s.phase = .abDetect) (a : Answer) :
    (({ s with answer := some a } : State).detectStep a).Inv := by
  have hquiet := (h.quiet (by simp [hp]) (by simp [hp])).delegate a (.detectRawBaud a.raw)
  rcases State.detectStep_cases a { s with answer := some a } with ⟨_, ht⟩ | ⟨_, ht⟩ <;> rw [ht]
  · exact State.Quiet.inv { hquiet with } rfl
  · exact { h.goAutobaudPhase (.inl hp) (.inl rfl) (left := 3) (by decide) with
      queue_fits := hquiet.queue_fits
      no_answer := rfl }

theorem State.Quiet.emitBreak (h : s.Quiet) (a : Answer) (b d : Nat) :
    (({ s with answer := some a } : State).emitBreak b d a).Quiet :=
  { h.delegate a (.emitPeriod (bitTimes b s.tpb) (bitTimes d s.tpb) s.par.invert) with }

theorem State.Quiet.transmit (h : s.Quiet) (a : Answer) (bytes : List Byte) (size : Nat) :
    (({ s with answer := some a } : State).transmit bytes size a).Quiet :=
  { h.delegate a (.transportWrite bytes size (accepted a size)) with }

/-- The bytes a `read` received are stored within its range (R105, R176). -/
theorem State.Quiet.receive (h : s.Quiet) (a : Answer) {addr size : Nat}
    (hr : bufRangeOk addr size = true) : (({ s with answer := some a } : State).receive addr size a).Quiet := by
  have hlen : addr + (received a size).length ≤ Config.bufBytes := by
    simp only [bufRangeOk, decide_eq_true_eq] at hr
    simp only [received, List.length_take]
    omega
  exact { h.delegate a (.transportRead addr size (received a size)) with
    buf_wf := Memory.writeRange_wf _ hlen h.buf_wf }

/-- A micro-step of the command in `CMD` that the transport answers. -/
theorem exec_answered_keeps_inv {a : Answer} (h : s.Inv) (hp : s.phase = .abDetect ∨ s.phase = .xportWait)
    (hd : decode s.cmd = .ok i) (ht : exec i { s with answer := some a } = .next t) : t.Inv := by
  have hcmd := h.cmd_agrees
  rcases hp with hp | hp <;> simp only [State.cmdAgrees, hp, hd] at hcmd
  · cases i <;> simp only [reduceCtorEq] at hcmd
    simp only [exec, execSetAutoBaud, hp] at ht
    cases ht
    exact h.detectStep hp a
  · have hquiet := h.quiet (by simp [hp]) (by simp [hp])
    cases i <;> simp only [reduceCtorEq] at hcmd
    case sendBreak b d =>
      simp only [exec, execSendBreak, hp] at ht
      cases ht
      exact (hquiet.emitBreak a b d).inv rfl
    case read addr size =>
      obtain ⟨_, hr⟩ := Bool.and_eq_true_iff.1 hcmd
      simp only [exec, execRead, hp, hr, if_true] at ht
      cases ht
      exact (hquiet.receive a hr).inv rfl
    case write addr size =>
      obtain ⟨_, hr⟩ := Bool.and_eq_true_iff.1 hcmd
      simp only [exec, execWrite, hp, hr, if_true] at ht
      cases ht
      exact (hquiet.transmit a _ size).inv rfl

/-! ## A step -/

/-- Every step keeps the invariant: reset, a push, a write of the host, an issue, a micro-step, or a hold. -/
theorem step_keeps_inv (h : s.Inv) (ht : step s = .next t) : t.Inv := by
  obtain ⟨ms, d, hs⟩ := s.nextMove_state
  obtain ⟨m, s', hm, hcases⟩ := step_cases ht
  obtain rfl : s' = { s with moves := ms, drawn := d } := by rw [← hs, hm]
  have h' := h.withMoves ms d
  rcases hcases with ⟨_, rfl⟩ | ⟨e, _, rfl⟩ | ⟨v, _, hp, rfl⟩ | ⟨addr, v, _, hp, rfl⟩ | ⟨addr, v, _, hp, rfl⟩ |
    ⟨w, later, e, _, hp, _, _, rfl⟩ | ⟨w, later, i, _, hp, _, hd, he⟩ | ⟨i, answer, _, _, hd, hwho, he⟩ | ⟨_, rfl⟩
  · exact h'.applyReset
  · exact h'.pushEdge e
  · exact State.Quiet.inv { h'.quiet (by simp [hp]) (by simp [hp]) with } hp
  · exact { h' with cand_wf := Memory.write_wf addr.isLt h.cand_wf }
  · exact { h' with buf_wf := Memory.write_wf addr.isLt h.buf_wf }
  · exact (h'.latch hp w later).raise (by simp [hp]) _
  · exact exec_keeps_inv (h'.latch hp w later) hd he
  · rcases hwho with ⟨_, rfl⟩ | ⟨a, _, rfl, hp⟩
    · exact exec_keeps_inv h' hd he
    · exact exec_answered_keeps_inv h' hp hd he
  · exact h'

end Rules

/-- Settles O18: a step keeps the invariant, and the four checks of R41 are clauses of it. -/
theorem stepLeavesChecksTrue : Obligations.StepLeavesChecksTrue := by
  intro s t h ht
  have h' := step_keeps_inv h ht
  exact ⟨h'.halted_iff, h'.drain_iff.1, h'.autobaud, h'.scan_idle⟩

end Sys2Proof.Machine
end

section
/-! PROOF. The decoder against the opcode table and the illegal words (spec/30_encoding.md R81 to R88): what it answers,
case by case; which fields a row's mask and match ask for; and the step that issues an illegal word. -/

namespace Sys2Proof

variable {w : CmdWord} {op op' : Op}

/-! ## Fields and masks -/

theorem field_eq (w : CmdWord) (hi lo : Nat) : field w hi lo = w.toNat / 2 ^ lo % 2 ^ (hi - lo + 1) := by
  simp [field, Nat.shiftRight_eq_div_pow]

/-- A mask of the bits from `n` up clears the bits below. -/
theorem and_highMask_eq_iff (w p : CmdWord) (n : Nat) :
    w &&& BitVec.allOnes 32 <<< n = p ↔ w.toNat / 2 ^ n * 2 ^ n = p.toNat := by
  have hle : w.toNat / 2 ^ n * 2 ^ n < 2 ^ 32 := (Nat.div_mul_le_self _ _).trans_lt w.isLt
  rw [← BitVec.shiftLeft_ushiftRight, ← BitVec.toNat_inj, BitVec.toNat_shiftLeft, BitVec.toNat_ushiftRight,
    Nat.shiftRight_eq_div_pow, Nat.shiftLeft_eq, Nat.mod_eq_of_lt hle]

/-- The fields by which a word spells an operation: the opcode, and the must-be-zero field of its format (R82 to R87). -/
def Op.Spells : Op → CmdWord → Prop
  | .sendBreak, w => field w 31 28 = 1 ∧ field w 27 16 = 0
  | .checkBreak, w => field w 31 28 = 2 ∧ field w 27 0 = 0
  | .setAutoBaud, w => field w 31 28 = 3
  | .endFrame, w => field w 31 28 = 4 ∧ field w 27 0 = 0
  | .read, w => field w 31 28 = 5
  | .write, w => field w 31 28 = 6

/-- A row's mask and match ask for the opcode and the must-be-zero field of its operation (R87). -/
theorem OpcodeRow.spelledBy_iff {r : OpcodeRow} (hr : r ∈ opcodeTable) : r.spelledBy w = true ↔ r.op.Spells w := by
  have hw := w.isLt
  have h28 : (0xF0000000 : CmdWord) = BitVec.allOnes 32 <<< 28 := by decide
  have h16 : (0xFFFF0000 : CmdWord) = BitVec.allOnes 32 <<< 16 := by decide
  have h0 : (0xFFFFFFFF : CmdWord) = BitVec.allOnes 32 <<< 0 := by decide
  simp only [opcodeTable, List.mem_cons, List.not_mem_nil, or_false] at hr
  rcases hr with rfl | rfl | rfl | rfl | rfl | rfl <;>
    simp only [OpcodeRow.spelledBy, beq_iff_eq, h28, h16, h0, and_highMask_eq_iff, Op.Spells, field_eq,
      BitVec.reduceToNat] <;>
    omega

/-! ## The decoder -/

/-- Everything the decoder can answer (R81 to R88). -/
theorem decode_cases (w : CmdWord) :
    (field w 31 28 = 1 ∧ field w 27 16 = 0 ∧ decode w = .ok (.sendBreak (field w 15 8) (field w 7 0))) ∨
    (field w 31 28 = 2 ∧ field w 27 0 = 0 ∧ decode w = .ok .checkBreak) ∨
    (field w 31 28 = 3 ∧ decode w = .ok (.setAutoBaud (field w 15 0) (field w 27 16))) ∨
    (field w 31 28 = 4 ∧ field w 27 0 = 0 ∧ decode w = .ok .endFrame) ∨
    (field w 31 28 = 5 ∧ decode w = .ok (.read (field w 15 0) (field w 27 16))) ∨
    (field w 31 28 = 6 ∧ decode w = .ok (.write (field w 15 0) (field w 27 16))) ∨
    ((field w 31 28 = 1 ∧ field w 27 16 ≠ 0 ∨ (field w 31 28 = 2 ∨ field w 31 28 = 4) ∧ field w 27 0 ≠ 0) ∧
      decode w = .error .reservedBitsSet) ∨
    ((field w 31 28 = 0 ∨ 7 ≤ field w 31 28) ∧ decode w = .error .noSuchOpcode) := by
  unfold decode
  split
  case h_1 h => by_cases hz : field w 27 16 = 0 <;> simp [h, hz]
  case h_2 h => by_cases hz : field w 27 0 = 0 <;> simp [h, hz]
  case h_4 h => by_cases hz : field w 27 0 = 0 <;> simp [h, hz]
  case h_7 h1 h2 h3 h4 h5 h6 =>
    have hop : field w 31 28 = 0 ∨ 7 ≤ field w 31 28 := by
      simp only [imp_false] at h1 h2 h3 h4 h5 h6
      omega
    simp [hop]
  all_goals simp [*]

theorem spells_of_decode {i : Instr} (h : decode w = .ok i) : i.op.Spells w := by
  rcases decode_cases w with ⟨hop, hz, hd⟩ | ⟨hop, hz, hd⟩ | ⟨hop, hd⟩ | ⟨hop, hz, hd⟩ | ⟨hop, hd⟩ | ⟨hop, hd⟩ |
    ⟨_, hd⟩ | ⟨_, hd⟩ <;> cases hd.symm.trans h
  · exact ⟨hop, hz⟩
  · exact ⟨hop, hz⟩
  · exact hop
  · exact ⟨hop, hz⟩
  · exact hop
  · exact hop

theorem decode_of_spells (h : op.Spells w) : ∃ i, decode w = .ok i ∧ i.op = op := by
  cases op <;> simp only [Op.Spells] at h <;> simp [decode, h, Instr.op]

/-- A word spells at most one operation: the decoder gives one answer. -/
theorem Op.Spells.unique (h : op.Spells w) (h' : op'.Spells w) : op = op' := by
  obtain ⟨i, hd, rfl⟩ := decode_of_spells h
  obtain ⟨i', hd', rfl⟩ := decode_of_spells h'
  rw [Except.ok.inj (hd.symm.trans hd')]

/-- The table holds one row for each operation. -/
theorem opcodeTable_op_inj : ∀ r ∈ opcodeTable, ∀ r' ∈ opcodeTable, r.op = r'.op → r = r' := by decide

/-- A word spells a row exactly when it is decoded to a command of the row's operation (R87). -/
theorem OpcodeRow.and_mask_iff_decode {r : OpcodeRow} (hr : r ∈ opcodeTable) :
    w &&& r.mask = r.pattern ↔ ∃ i, decode w = .ok i ∧ i.op = r.op := by
  rw [← beq_iff_eq, ← OpcodeRow.spelledBy, OpcodeRow.spelledBy_iff hr]
  exact ⟨decode_of_spells, fun ⟨_, hd, hop⟩ => hop ▸ spells_of_decode hd⟩

/-- Some command has a property: the six operations with their operands. -/
theorem Instr.exists_iff {P : Instr → Prop} : (∃ i, P i) ↔
    (∃ b d, P (.sendBreak b d)) ∨ P .checkBreak ∨ (∃ base n, P (.setAutoBaud base n)) ∨ P .endFrame ∨
    (∃ addr size, P (.read addr size)) ∨ ∃ addr size, P (.write addr size) := by
  constructor
  · rintro ⟨i, h⟩
    cases i <;> grind
  · rintro (⟨b, d, h⟩ | h | ⟨base, n, h⟩ | h | ⟨addr, size, h⟩ | ⟨addr, size, h⟩) <;> exact ⟨_, h⟩

/-- The illegal words (R88). -/
theorem decode_error_iff : (∃ e, decode w = .error e) ↔
    (field w 31 28 = 0 ∨ 7 ≤ field w 31 28 ∨ (field w 31 28 = 1 ∧ field w 27 16 ≠ 0) ∨
      ((field w 31 28 = 2 ∨ field w 31 28 = 4) ∧ field w 27 0 ≠ 0)) := by
  rcases decode_cases w with ⟨hop, hz, hd⟩ | ⟨hop, hz, hd⟩ | ⟨hop, hd⟩ | ⟨hop, hz, hd⟩ | ⟨hop, hd⟩ | ⟨hop, hd⟩ |
    ⟨hop, hd⟩ | ⟨hop, hd⟩ <;> simp [hd] <;> omega

end Sys2Proof

namespace Sys2Proof.Machine

variable {s : State} {w : CmdWord}

/-! ## The issue of a word -/

/-- The host's issue in `READY` takes the next word of the program (R92). -/
theorem step_of_issue {later : List CmdWord} {rest : List Move} (hm : s.moves = .host .issue :: rest)
    (hw : s.program = w :: later) (hp : s.phase = .ready) :
    step s = { s with moves := rest, program := later }.issueCommand w := by
  rw [step_of_moves hm]
  simp [State.perform, State.hostMove, hp, hw]

/-- A word that spells no operation is latched, recorded and faults with cause 1 (R161, R166). -/
theorem State.issueCommand_illegal {e : DecodeError} (hd : decode w = .error e) :
    s.issueCommand w = .next { s with
      cmd := w, cause := 1, faultCmd := w, phase := .halted, trace := s.trace ++ [.issue w, .fault 1 w] } := by
  simp [State.issueCommand, hd, State.raise, State.record, Cause.code]

/-- Settles O3: a row's mask and match ask for the fields on which the decoder answers its operation, and the decoder
gives a word one answer. -/
theorem decoderMatchesOpcodeTable : Obligations.DecoderMatchesOpcodeTable := by
  refine ⟨fun w => ?_, fun w r hr r' hr' h h' => ?_⟩
  · -- the six clauses are the rows of the table, with the command written out by its operation
    have hrow : ∀ r ∈ opcodeTable, (w &&& r.mask = r.pattern ↔ ∃ i, decode w = .ok i ∧ i.op = r.op) :=
      fun _ => OpcodeRow.and_mask_iff_decode
    simpa [opcodeTable, Instr.exists_iff, Instr.op] using hrow
  · exact opcodeTable_op_inj r hr r' hr'
      (((OpcodeRow.spelledBy_iff hr).1 h).unique ((OpcodeRow.spelledBy_iff hr').1 h'))

/-- Settles O4: by the cases of the decoder, and the step that issues a word it refuses. -/
theorem illegalWordsFault : Obligations.IllegalWordsFault := by
  refine ⟨fun w => decode_error_iff, ⟨.noSuchOpcode, by decide⟩, ⟨.noSuchOpcode, by decide⟩, fun w => ?_, ?_⟩
  · cases decode w <;> simp
  · intro s w later rest e hm hw hp hd
    rw [step_of_issue hm hw hp, State.issueCommand_illegal hd]

end Sys2Proof.Machine
end

section
/-! PROOF. `endFrame` (spec/40_frame_lifecycle.md R103): its one micro-step, the hold in every other phase, and the
obligation that it moves either frame state to `Idle` and changes nothing else. -/

namespace Sys2Proof.Machine

variable {s : State}

/-- Issued in `READY`, `endFrame` completes in `Idle`, whichever the frame state was (R103). -/
theorem exec_endFrame_of_ready (hp : s.phase = .ready) :
    exec .endFrame s = .next ((s.setFrame .idle).complete .endFrame) := by
  simp [exec, execEndFrame, hp]

/-- Outside `READY` no micro-step of `endFrame` is enabled (R27; log 4). -/
theorem exec_endFrame_of_not_ready (hp : s.phase ≠ .ready) : exec .endFrame s = .next s := by
  cases h : s.phase <;> simp [exec, execEndFrame, h] at hp ⊢

/-- A frame that is ended already is not changed by ending it again. -/
theorem State.setFrame_of_eq {f : FrameState} (h : s.frameState = f) : s.setFrame f = s := by
  subst h
  rfl

/-- Settles O34: the word by the cases of the decoder, the steps by the phase; the first `endFrame` leaves `READY` and
`Idle`, so the second only completes. -/
theorem endFrameSteps : Obligations.EndFrameSteps := by
  refine ⟨by decide, fun w hop hz => ?_, fun s hp => exec_endFrame_of_ready hp, fun s hp => ?_, ?_⟩
  · exact decode_error_iff.2 (.inr (.inr (.inr ⟨.inr hop, hz⟩)))
  · exact exec_endFrame_of_not_ready (by simp [hp])
  · intro s t u hp ht hu
    cases (exec_endFrame_of_ready hp).symm.trans ht
    have hready : ((s.setFrame .idle).complete .endFrame).phase = .ready := by simp
    have hidle : ((s.setFrame .idle).complete .endFrame).frameState = .idle := by simp
    rw [exec_endFrame_of_ready hready, State.setFrame_of_eq hidle] at hu
    injection hu with hu
    exact hu.symm

end Sys2Proof.Machine
end

section
/-! PROOF. The interval decoder's bit count (spec/41_break_detector.md R120, R121, R124): how far the counted bit-times
are from the interval, and the comparison of a count with a number that follows from it. -/

namespace Sys2Proof.Machine

variable {t tpb k : Nat}

/-- The remainder exceeds the exact half exactly when it exceeds the floor of it, for an even and for an odd `tpb`. -/
theorem two_mul_gt_iff_gt_half (r tpb : Nat) : 2 * r > tpb ↔ r > tpb / 2 := by omega

/-- The counted bit-times are less than half a bit-time longer than the interval, and at most half a bit-time shorter
(R120, doubled). -/
theorem bitCount_mul_bounds (htpb : 0 < tpb) :
    2 * (bitCount t tpb * tpb) < 2 * t + tpb ∧ 2 * t ≤ 2 * (bitCount t tpb * tpb) + tpb := by
  have hdiv : t / tpb * tpb + t % tpb = t := Nat.div_add_mod' t tpb
  have hmod : t % tpb < tpb := Nat.mod_lt t htpb
  unfold bitCount
  split
  · rw [Nat.add_one_mul (t / tpb)]
    omega
  · rw [Nat.add_zero]
    omega

/-- A count is at most `k` exactly when the interval is at most `k` and a half bit-times. -/
theorem bitCount_le_iff (htpb : 0 < tpb) : bitCount t tpb ≤ k ↔ 2 * t ≤ 2 * (k * tpb) + tpb := by
  obtain ⟨hlower, hupper⟩ := bitCount_mul_bounds (t := t) htpb
  constructor
  · intro hle
    have hmul := Nat.mul_le_mul_right tpb hle
    omega
  · intro ht
    by_contra hgt
    have hmul : (k + 1) * tpb ≤ bitCount t tpb * tpb := Nat.mul_le_mul_right tpb (by omega)
    rw [Nat.add_one_mul] at hmul
    omega

/-- A count is above `k` exactly when the interval is longer than `k` and a half bit-times (R124). -/
theorem lt_bitCount_iff (htpb : 0 < tpb) : k < bitCount t tpb ↔ k * tpb + tpb / 2 + 1 ≤ t := by
  rw [← Nat.not_le, bitCount_le_iff htpb]
  omega

/-- The threshold of a break (R124). -/
theorem thirteen_le_bitCount_iff (htpb : 0 < tpb) : 13 ≤ bitCount t tpb ↔ 12 * tpb + tpb / 2 + 1 ≤ t :=
  lt_bitCount_iff htpb

theorem bitCount_mono (htpb : 0 < tpb) {t' : Nat} (ht : t ≤ t') : bitCount t tpb ≤ bitCount t' tpb :=
  (bitCount_le_iff htpb).2 ((Nat.mul_le_mul_left 2 ht).trans (bitCount_mul_bounds htpb).2)

theorem bitCount_le_div_add_one (t tpb : Nat) : bitCount t tpb ≤ t / tpb + 1 := by
  unfold bitCount
  split <;> omega

@[simp] theorem bitCount_zero (tpb : Nat) : bitCount 0 tpb = 0 := by simp [bitCount]

@[simp] theorem bitCount_one (t : Nat) : bitCount t 1 = t := by simp [bitCount, Nat.mod_one]

/-- Settles O22: the definition with either form of the test, and the bounds on the counted bit-times. -/
theorem bitCountRounds : Obligations.BitCountRounds := by
  refine fun t tpb htpb => ⟨rfl, ?_, fun hhalf => ?_, bitCount_mul_bounds htpb⟩
  · simp only [bitCount, two_mul_gt_iff_gt_half]
  · simp [bitCount, hhalf]

/-- Settles O23: the quotient is below `2^32` where the interval is, and the count follows the interval. -/
theorem bitCountRange : Obligations.BitCountRange := by
  refine ⟨fun t tpb ht _ => ⟨bitCount_le_div_add_one t tpb, ?_⟩, fun tpb _ => bitCount_zero tpb, bitCount_one,
    fun _ _ _ htpb => bitCount_mono htpb⟩
  exact (Nat.div_le_self t tpb).trans_lt ht

/-- Settles O24: a count of at least `k` is one above `k - 1`; the four examples are the threshold of a break at their
ticks-per-bit. -/
theorem breakThreshold : Obligations.BreakThreshold := by
  refine ⟨fun _ _ => thirteen_le_bitCount_iff, fun t tpb k htpb hk => ?_, fun t => ⟨?_, ?_, ?_, ?_⟩⟩
  · rw [← lt_bitCount_iff htpb]
    omega
  all_goals exact thirteen_le_bitCount_iff (by decide)

end Sys2Proof.Machine
end

section
/-! PROOF. The issue and detect steps of `setAutoBaud` (spec/42_autobaud.md R142, R144), each as one step of the
machine, and the whole command whose detection fails. -/

namespace Sys2Proof.Machine

variable {s t u : State} {w : CmdWord} {i : Instr} {a : Answer} {base n : Nat} {rest : List Move}

/-! ## Runs and steps -/

/-- A run goes on from the state its first step answers. -/
theorem core_run_succ_of_step {k : Nat} (h : step s = .next t) (hrun : core.run k t = .next u) :
    core.run (k + 1) s = .next u := by
  have hcore : core.step s = .next t := h
  simp only [Host.Core.run, hcore, hrun]

/-- A word that spells a command is latched and recorded, and the command takes its issue step (R92). -/
theorem State.issueCommand_of_decode (hd : decode w = .ok i) :
    s.issueCommand w = exec i ({ s with cmd := w }.record (.issue w)) := by
  simp [State.issueCommand, hd]

/-- The transport's answer in `AB_DETECT` is the micro-step of the command in `CMD` (R173). -/
theorem step_of_detection (hm : s.moves = .transport a :: rest) (hp : s.phase = .abDetect)
    (hd : decode s.cmd = .ok i) : step s = exec i { s with moves := rest, answer := some a } := by
  rw [step_of_moves hm]
  simp [State.perform, State.transportMove, State.continueCommand, hp, hd]

/-! ## The micro-steps of `setAutoBaud` -/

/-- In `InFrame`, with a list that is not empty and within `CAND`, `setAutoBaud` passes its checks at issue (R165). -/
theorem issueFault_setAutoBaud_eq_none (hn : n ≠ 0) (hrange : base + n ≤ Config.candWords) :
    issueFault (.setAutoBaud base n) .inFrame = none := by
  refine issueFault_eq_none.2 ⟨?_, ?_, ?_⟩
  · rintro want ⟨⟩
    rfl
  · rintro base n ⟨⟩
    exact ⟨hn, hrange⟩
  · rintro addr size (h | h) <;> cases h

/-- The issue step, its checks passed (R142). -/
theorem exec_setAutoBaud_of_ready (hp : s.phase = .ready)
    (hf : issueFault (.setAutoBaud base n) s.frameState = none) :
    exec (.setAutoBaud base n) s = .next s.startAutobaud := by
  simp [exec, execSetAutoBaud, hp, hf]

/-- The detect step, the transport's answer at hand (R142). -/
theorem exec_setAutoBaud_of_answer (hp : s.phase = .abDetect) (ha : s.answer = some a) :
    exec (.setAutoBaud base n) s = .next (s.detectStep a) := by
  simp [exec, execSetAutoBaud, hp, ha]

/-- A detection failure: the saved `TPB` is restored, and the command ends with 0 (R144). -/
theorem State.detectStep_of_raw_eq_zero (hraw : a.raw = 0) :
    s.detectStep a = { s with
      raw := 0, tpb := s.savedTpb, result := 0, phase := .ready, lastEdge := a.lastEdge,
      q := s.q.drop (min a.consumed s.q.length), answer := none,
      trace := s.trace ++ [.call (.detectRawBaud 0), .setTpb s.savedTpb, .done .setAutoBaud (some 0)] } := by
  rcases State.detectStep_cases a s with ⟨_, hfail⟩ | ⟨hne, _⟩
  · rw [hfail, ← List.drop_eq_drop_min]
    simp [State.delegate, State.setTicksPerBit, State.completeWith, hraw]
  · exact absurd hraw hne

/-! ## The whole command -/

/-- The step that issues a `setAutoBaud` which passes its checks: `TPB` is saved and overridden with `TPB_REF`
(R142). -/
theorem step_of_setAutoBaud_issue {later : List CmdWord} (hm : s.moves = .host .issue :: rest)
    (hw : s.program = w :: later) (hp : s.phase = .ready) (hd : decode w = .ok (.setAutoBaud base n))
    (hf : issueFault (.setAutoBaud base n) s.frameState = none) :
    step s = .next { s with
      moves := rest, program := later, cmd := w, savedTpb := s.tpb, tpb := s.par.tpbRef, phase := .abDetect,
      trace := s.trace ++ [.issue w, .setTpb s.par.tpbRef] } := by
  rw [step_of_issue hm hw hp, State.issueCommand_of_decode hd]
  refine Eq.trans (exec_setAutoBaud_of_ready hp hf) ?_
  simp [State.startAutobaud, State.record, State.setTicksPerBit, State.goPhase, State.getTicksPerBit]

/-- The step in which the detection fails (R144). -/
theorem step_of_detection_failure (hm : s.moves = .transport a :: rest) (hp : s.phase = .abDetect)
    (hd : decode s.cmd = .ok (.setAutoBaud base n)) (hraw : a.raw = 0) :
    step s = .next { s with
      moves := rest, raw := 0, tpb := s.savedTpb, result := 0, phase := .ready, lastEdge := a.lastEdge,
      q := s.q.drop (min a.consumed s.q.length), answer := none,
      trace := s.trace ++ [.call (.detectRawBaud 0), .setTpb s.savedTpb, .done .setAutoBaud (some 0)] } := by
  rw [step_of_detection hm hp hd]
  refine Eq.trans (exec_setAutoBaud_of_answer hp rfl) ?_
  rw [State.detectStep_of_raw_eq_zero hraw]

/-- Settles O48: the issue step saves `TPB`, and the detect step, answered with 0, puts it back. -/
theorem detectionFailureRestoresTpb : Obligations.DetectionFailureRestoresTpb := by
  intro s w later base n a rest hp hframe hd hn hrange hraw hprog hm
  have hf : issueFault (.setAutoBaud base n) s.frameState = none :=
    hframe ▸ issueFault_setAutoBaud_eq_none hn hrange
  refine core_run_succ_of_step (step_of_setAutoBaud_issue hm hprog hp hd hf)
    (core_run_succ_of_step (step_of_detection_failure rfl rfl hd hraw) ?_)
  simp [Host.Core.run]

end Sys2Proof.Machine
end

section
/-! PROOF. The exceptions (spec/60_exceptions.md R160 to R168): the checks at issue and the step that fails one of them,
the only ways a step takes a fault, and the halt that only reset leaves. -/

namespace Sys2Proof.Machine

variable {s t : State} {w : CmdWord} {i : Instr} {c : Cause} {f : FrameState} {later : List CmdWord} {rest : List Move}

/-! ## The checks at issue (R165) -/

/-- The frame state is checked first, whatever the operands (R162). -/
theorem issueFault_of_frame_ne {want : FrameState} (hreq : requiredFrame i.op = some want) (hf : f ≠ want) :
    issueFault i f = some (frameFault want) := by
  simp [issueFault, hreq, hf]

/-- An empty candidate list is found before the range is looked at (R163). -/
theorem issueFault_setAutoBaud_empty (base : Nat) :
    issueFault (.setAutoBaud base 0) .inFrame = some .emptyCandidateSet := rfl

theorem issueFault_setAutoBaud_bounds {base n : Nat} (hn : n ≠ 0) (hrange : Config.candWords < base + n) :
    issueFault (.setAutoBaud base n) .inFrame = some .boundsFault := by
  simp [issueFault, requiredFrame, Instr.op, candRangeOk, hn, hrange]

theorem issueFault_read_bounds {addr size : Nat} (hrange : Config.bufBytes < addr + size) :
    issueFault (.read addr size) .inFrame = some .boundsFault := by
  simp [issueFault, requiredFrame, Instr.op, bufRangeOk, hrange]

theorem issueFault_write_bounds {addr size : Nat} (hrange : Config.bufBytes < addr + size) :
    issueFault (.write addr size) .inFrame = some .boundsFault := by
  simp [issueFault, requiredFrame, Instr.op, bufRangeOk, hrange]

/-- The checks at issue name causes 2 to 5 only (R160): the causes of a scan and of a selection are none of theirs. -/
theorem issueFault_code_le (h : issueFault i f = some c) : c.code.toNat ≤ 5 := by
  unfold issueFault at h
  cases hreq : requiredFrame i.op with
  | none => simp [hreq] at h
  | some want =>
    simp only [hreq] at h
    split at h
    · cases h
      cases want <;> decide
    · (repeat' split at h) <;> cases h <;> decide

/-- A command that fails a check at issue faults and does nothing else (R161). -/
theorem exec_of_issueFault (hp : s.phase = .ready) (hf : issueFault i s.frameState = some c) :
    exec i s = .next (s.raise c) := by
  cases i with
  | sendBreak b d => simp [exec, execSendBreak, hp, hf]
  | checkBreak => simp [exec, execCheckBreak, hp, hf]
  | setAutoBaud base n => simp [exec, execSetAutoBaud, hp, hf]
  | endFrame => cases hf
  | read addr size => simp [exec, execRead, hp, hf]
  | write addr size => simp [exec, execWrite, hp, hf]

/-- The step that issues a command which fails a check: the word is latched and recorded, and the fault taken (R166). -/
theorem step_of_issueFault (hm : s.moves = .host .issue :: rest) (hw : s.program = w :: later) (hp : s.phase = .ready)
    (hd : decode w = .ok i) (hf : issueFault i s.frameState = some c) :
    step s = .next { s with
      moves := rest, program := later, cmd := w, cause := c.code, faultCmd := w, phase := .halted,
      trace := s.trace ++ [.issue w, .fault c.code w] } := by
  rw [step_of_issue hm hw hp, State.issueCommand_of_decode hd]
  refine Eq.trans (exec_of_issueFault hp hf) ?_
  simp [State.raise, State.record]

/-- Settles O11: the step of an illegal word, and for each operation the first check that fails. -/
theorem issueChecksInOrder : Obligations.IssueChecksInOrder := by
  intro s w later rest hm hw hp
  -- the step of a word that spells a command, given the check it fails
  have hstep {i : Instr} {f : FrameState} {c : Cause} (hd : decode w = .ok i) (hs : s.frameState = f)
      (hf : issueFault i f = some c) := step_of_issueFault hm hw hp hd (hs ▸ hf)
  refine ⟨fun e hd => ?_, fun b d hd hs => ?_, fun hd hs => ?_, fun base n hd => ⟨fun hs => ?_, ?_, ?_⟩,
    fun addr size hd => ⟨fun hs => ?_, fun hs hrange => ?_⟩, fun addr size hd => ⟨fun hs => ?_, fun hs hrange => ?_⟩⟩
  · rw [step_of_issue hm hw hp, State.issueCommand_illegal hd]
  · exact hstep hd hs (issueFault_of_frame_ne rfl (by decide))
  · exact hstep hd hs (issueFault_of_frame_ne rfl (by decide))
  · exact hstep hd hs (issueFault_of_frame_ne rfl (by decide))
  · rintro hs rfl
    exact hstep hd hs (issueFault_setAutoBaud_empty base)
  · exact fun hs hn hrange => hstep hd hs (issueFault_setAutoBaud_bounds hn hrange)
  · exact hstep hd hs (issueFault_of_frame_ne rfl (by decide))
  · exact hstep hd hs (issueFault_read_bounds hrange)
  · exact hstep hd hs (issueFault_of_frame_ne rfl (by decide))
  · exact hstep hd hs (issueFault_write_bounds hrange)

/-! ## The steps that take a fault (R164, R166) -/

theorem Cause.code_pos (c : Cause) : 1 ≤ c.code.toNat := by cases c <;> decide

/-- No fault is taken from `s` to `t`: `CAUSE` stays, and `HALTED` is not entered. -/
structure State.TakesNoFault (s t : State) : Prop where
  cause_eq : t.cause = s.cause
  halted : t.phase = .halted → s.phase = .halted

theorem State.takesNoFault_refl (s : State) : s.TakesNoFault s := ⟨rfl, id⟩

/-- The detection either fails, which ends the command, or goes on to the drain (R142). -/
theorem State.detectStep_takesNoFault (a : Answer) (s : State) : s.TakesNoFault (s.detectStep a) := by
  rcases s.detectStep_cases a with ⟨_, h⟩ | ⟨_, h⟩ <;> rw [h] <;> exact ⟨rfl, by simp⟩

theorem State.drainStep_takesNoFault (h : s.drainStep = some t) : s.TakesNoFault t := by
  rcases s.drainStep_cases with ⟨_, hs⟩ | ⟨e, rest, _, hs⟩ <;> rw [hs] at h <;> cases h
  exact ⟨rfl, by dsimp only; split <;> simp⟩

/-- The only faults of a command: a check at issue, a zero `TPB` after the pop of a scan, a zero candidate at the
selection (R160 to R164). -/
theorem exec_fault_cases (h : exec i s = .next t) :
    s.TakesNoFault t ∨
    (s.phase = .ready ∧ ∃ c, issueFault i s.frameState = some c ∧ t = s.raise c) ∨
    (s.phase = .cbScan ∧ ∃ e rest, s.q = e :: rest ∧
      t = ({ s with q := rest, lastEdge := e, trace := s.trace ++ [.pop e] } : State).raise .zeroTicksPerBit) ∨
    (s.phase = .abSelect ∧ t = s.raise .zeroBaudCandidate) := by
  cases i with
  | sendBreak b d =>
    rcases execSendBreak_cases h with hissue | ⟨_, _, rfl⟩ | ⟨a, _, _, rfl⟩ | ⟨_, _, rfl⟩
    · exact .inr (.inl hissue)
    · exact .inl ⟨rfl, by simp⟩
    · exact .inl ⟨rfl, by simp [State.emitBreak]⟩
    · exact .inl t.takesNoFault_refl
  | checkBreak =>
    rcases execCheckBreak_cases h with hissue | ⟨_, _, rfl⟩ | ⟨_, _, rfl⟩ | ⟨e, rest, hp, hq, rfl⟩ | ⟨_, _, rfl⟩
    · exact .inr (.inl hissue)
    · exact .inl ⟨rfl, by simp⟩
    · exact .inl ⟨rfl, by simp⟩
    · rcases State.judgeInterval_cases s.lastEdge e
        { s with q := rest, lastEdge := e, trace := s.trace ++ [.pop e] } with ⟨_, ht⟩ | ⟨_, _, ht⟩ | ⟨_, _, ht⟩ <;>
        rw [ht]
      · exact .inr (.inr (.inl ⟨hp, e, rest, hq, rfl⟩))
      · exact .inl ⟨rfl, by simp⟩
      · exact .inl ⟨rfl, by simp⟩
    · exact .inl t.takesNoFault_refl
  | setAutoBaud base n =>
    rcases execSetAutoBaud_cases h with hissue | ⟨_, _, rfl⟩ | ⟨a, _, _, rfl⟩ | ⟨_, hdrain⟩ | ⟨sel, hp, _, _, rfl⟩ |
      ⟨_, _, _, _, rfl⟩
    · exact .inr (.inl hissue)
    · exact .inl ⟨rfl, by simp [State.startAutobaud]⟩
    · exact .inl (s.detectStep_takesNoFault a)
    · exact .inl (State.drainStep_takesNoFault hdrain)
    · rcases s.settle_cases sel with ⟨_, ht⟩ | ⟨_, ht⟩ | ⟨_, _, ht⟩ <;> rw [ht]
      · exact .inl ⟨rfl, by simp⟩
      · exact .inr (.inr (.inr ⟨hp, rfl⟩))
      · exact .inl ⟨rfl, by simp⟩
    · exact .inl t.takesNoFault_refl
  | endFrame =>
    rcases execEndFrame_cases h with ⟨_, rfl⟩ | ⟨_, rfl⟩
    · exact .inl ⟨rfl, by simp⟩
    · exact .inl t.takesNoFault_refl
  | read addr size =>
    rcases execRead_cases h with hissue | ⟨_, _, rfl⟩ | ⟨a, _, _, _, rfl⟩ | ⟨_, _, rfl⟩
    · exact .inr (.inl hissue)
    · exact .inl ⟨rfl, by simp⟩
    · exact .inl ⟨rfl, by simp [State.receive]⟩
    · exact .inl t.takesNoFault_refl
  | write addr size =>
    rcases execWrite_cases h with hissue | ⟨_, _, rfl⟩ | ⟨a, _, _, _, rfl⟩ | ⟨_, _, rfl⟩
    · exact .inr (.inl hissue)
    · exact .inl ⟨rfl, by simp⟩
    · exact .inl ⟨rfl, by simp [State.transmit]⟩
    · exact .inl t.takesNoFault_refl

theorem State.pushEdge_takesNoFault (e : EventWord) (s : State) : s.TakesNoFault (s.pushEdge e) := by
  rcases s.pushEdge_cases e with ⟨_, h⟩ | ⟨_, _, h⟩ | ⟨_, _, h⟩ <;> rw [h] <;> exact ⟨rfl, id⟩

/-- Reset is taken in every state (R190). -/
theorem step_of_reset (hm : s.nextMove.1 = .reset) : step s = .next s.nextMove.2.applyReset := by
  simp [step, State.perform, hm]

/-- The only steps other than reset that take a fault: the issue of a word, with what was latched; a scan, after its pop;
and a selection. -/
theorem step_fault_cases (hm : s.nextMove.1 ≠ .reset) (h : step s = .next t) :
    s.TakesNoFault t ∨
    ∃ ms d ans,
      (s.phase = .ready ∧ ∃ w later c, c.code.toNat ≤ 5 ∧ t =
        ({ s with moves := ms, drawn := d, answer := ans, program := later, cmd := w,
                  trace := s.trace ++ [.issue w] } : State).raise c) ∨
      (s.phase = .cbScan ∧ ∃ e rest, s.q = e :: rest ∧ t =
        ({ s with moves := ms, drawn := d, answer := ans, q := rest, lastEdge := e,
                  trace := s.trace ++ [.pop e] } : State).raise .zeroTicksPerBit) ∨
      (s.phase = .abSelect ∧ t =
        ({ s with moves := ms, drawn := d, answer := ans } : State).raise .zeroBaudCandidate) := by
  obtain ⟨ms, d, hs⟩ := s.nextMove_state
  obtain ⟨m, s', hnext, hcases⟩ := step_cases h
  obtain rfl : s' = { s with moves := ms, drawn := d } := by rw [← hs, hnext]
  rcases hcases with ⟨hreset, _⟩ | ⟨e, _, rfl⟩ | ⟨v, _, _, rfl⟩ | ⟨addr, v, _, _, rfl⟩ | ⟨addr, v, _, _, rfl⟩ |
    ⟨w, later, e, _, hp, _, _, rfl⟩ | ⟨w, later, i, _, hp, _, _, he⟩ | ⟨i, ans, hready, _, _, _, he⟩ | ⟨_, rfl⟩
  · exact absurd (by rw [hnext]; exact hreset) hm
  · obtain ⟨hc, hh⟩ := State.pushEdge_takesNoFault e { s with moves := ms, drawn := d }
    exact .inl ⟨hc, hh⟩
  · exact .inl ⟨rfl, id⟩
  · exact .inl ⟨rfl, id⟩
  · exact .inl ⟨rfl, id⟩
  · exact .inr ⟨ms, d, s.answer, .inl ⟨hp, w, later, .illegalCommand, by decide, rfl⟩⟩
  · rcases exec_fault_cases he with ⟨hc, hh⟩ | ⟨_, c, hf, rfl⟩ | ⟨hscan, _⟩ | ⟨hselect, _⟩
    · exact .inl ⟨hc, hh⟩
    · exact .inr ⟨ms, d, s.answer, .inl ⟨hp, w, later, c, issueFault_code_le hf, rfl⟩⟩
    · exact absurd (hscan.symm.trans hp) (by decide)
    · exact absurd (hselect.symm.trans hp) (by decide)
  · rcases exec_fault_cases he with ⟨hc, hh⟩ | ⟨hp, _⟩ | ⟨hp, e, rest, hq, rfl⟩ | ⟨hp, rfl⟩
    · exact .inl ⟨hc, hh⟩
    · exact absurd hp hready
    · exact .inr ⟨ms, d, ans, .inr (.inl ⟨hp, e, rest, hq, rfl⟩)⟩
    · exact .inr ⟨ms, d, ans, .inr (.inr ⟨hp, rfl⟩)⟩
  · exact .inl ⟨rfl, id⟩

/-- Settles O13: each of the three steps that take a fault changes, before it, only what it latched or popped. -/
theorem faultEntryIsPrecise : Obligations.FaultEntryIsPrecise := by
  intro s t h hp ht
  have hm : s.nextMove.1 ≠ .reset := by
    intro hm
    cases (step_of_reset hm).symm.trans h
    simp at ht
  rcases step_fault_cases hm h with hno | ⟨ms, d, ans, hissue | hscan | hselect⟩
  · exact absurd (hno.halted ht) hp
  · obtain ⟨hready, w, later, c, hc, rfl⟩ := hissue
    have h6 : c.code ≠ 6#4 := fun h6 => by simp [h6] at hc
    have h7 : c.code ≠ 7#4 := fun h7 => by simp [h7] at hc
    refine ⟨c.code_pos, Nat.le_of_lt_succ c.code_lt, rfl, ⟨[.issue w], by simp⟩, ?_⟩
    simp [h6, h7, hready]
  · obtain ⟨hscan, e, rest, hq, rfl⟩ := hscan
    refine ⟨Cause.code_pos .zeroTicksPerBit, by simp [Cause.code], rfl, ⟨[.pop e], by simp⟩, ?_⟩
    simp [Cause.code, hscan, hq]
  · obtain ⟨hselect, rfl⟩ := hselect
    refine ⟨Cause.code_pos .zeroBaudCandidate, by simp [Cause.code], rfl, ⟨[], by simp⟩, ?_⟩
    simp [Cause.code, hselect]

/-! ## The halt (R168) -/

/-- In `HALTED` no agent but the producer and reset has a move: the block stays as it is. -/
theorem step_of_halted (hp : s.phase = .halted) (hm : s.nextMove.1 ≠ .reset) :
    ∃ ms d q o tr, step s = .next { s with moves := ms, drawn := d, q := q, queueOverflow := o, trace := tr } := by
  obtain ⟨ms, d, hs⟩ := s.nextMove_state
  refine ⟨ms, d, ?_⟩
  unfold step
  rw [hs]
  cases hmove : s.nextMove.1 with
  | host a => exact ⟨s.q, s.queueOverflow, s.trace, by simp [State.perform, State.hostMove, hp]⟩
  | block => exact ⟨s.q, s.queueOverflow, s.trace, by simp [State.perform, State.blockMove, hp]⟩
  | transport a => exact ⟨s.q, s.queueOverflow, s.trace, by simp [State.perform, State.transportMove, hp]⟩
  | push e =>
    simp only [State.perform]
    rcases State.pushEdge_cases e { s with moves := ms, drawn := d } with ⟨_, h⟩ | ⟨_, _, h⟩ | ⟨_, _, h⟩ <;> rw [h]
    · exact ⟨_, _, _, rfl⟩
    · exact ⟨_, _, _, rfl⟩
    · exact ⟨_, _, _, rfl⟩
  | reset => exact absurd hmove hm

/-- Settles O12: in `HALTED` only the producer and reset move; reset clears the record; and a step that is no reset keeps
`CAUSE` or records a cause, none of whose codes is 0. -/
theorem haltedIsLeftOnlyByReset : Obligations.HaltedIsLeftOnlyByReset := by
  refine ⟨fun s hp hm => ?_, fun s hm => ?_, fun s t hm h hcause => ?_⟩
  · obtain ⟨ms, d, q, o, tr, h⟩ := step_of_halted hp hm
    exact ⟨_, h, by simp [hp]⟩
  · exact ⟨_, step_of_reset hm, by simp⟩
  · rcases step_fault_cases hm h with hno | ⟨ms, d, ans, ⟨_, w, later, c, _, rfl⟩ | ⟨_, e, rest, _, rfl⟩ | ⟨_, rfl⟩⟩
    · rwa [hno.cause_eq]
    · exact c.code_ne_zero
    · exact Cause.code_ne_zero .zeroTicksPerBit
    · exact Cause.code_ne_zero .zeroBaudCandidate

end Sys2Proof.Machine
end

section
/-! PROOF. Reset (spec/70_reset_and_hazards.md R190): the step that applies it, in any state. -/

namespace Sys2Proof.Machine

/-- With tick 0 in its upper bits, `LAST_EDGE` after reset is its parity bit alone (R21). -/
theorem lastEdgeAtReset_eq_ite (p : Params) : lastEdgeAtReset p = if p.invert then 0 else 1 := by
  unfold lastEdgeAtReset
  cases p.invert
  · rfl
  · rfl

/-- Settles O14: a reset step is `State.applyReset` after the move is taken, and taking a move leaves the parameters, the
operand memories and the trace that reset reads. -/
theorem resetStepValues : Obligations.ResetStepValues := by
  intro s hm
  obtain ⟨ms, d, hs⟩ := s.nextMove_state
  have hstep : step s = .next ({ s with moves := ms, drawn := d } : State).applyReset := hs ▸ step_of_reset hm
  exact ⟨_, hstep, by simp [lastEdgeAtReset_eq_ite]⟩

end Sys2Proof.Machine
end

section
/-! PROOF. The encoder against the decoder and the assembler (spec/30_encoding.md R81 to R91): the number a command's
word is, field by field, from which both directions of the round trip follow, and the words of the assembler's lines. -/

namespace Sys2Proof

variable {w : CmdWord} {mid lo b d : Nat}

/-! ## The number of a word -/

/-- Two fields side by side, as a number. -/
theorem toNat_append_eq_add {m n : Nat} (x : BitVec m) (y : BitVec n) :
    (x ++ y).toNat = x.toNat * 2 ^ n + y.toNat := by
  rw [BitVec.toNat_append, ← Nat.shiftLeft_add_eq_or_of_lt y.isLt, Nat.shiftLeft_eq]

/-- A word of formats C and M whose operands fit their fields (R84, R85). -/
theorem toNat_operandWord (opcode : BitVec 4) (hmid : mid < 2 ^ 12) (hlo : lo < 2 ^ 16) :
    (opcode ++ BitVec.ofNat 12 mid ++ BitVec.ofNat 16 lo : CmdWord).toNat =
      opcode.toNat * 2 ^ 28 + mid * 2 ^ 16 + lo := by
  simp only [toNat_append_eq_add, BitVec.toNat_ofNat, Nat.mod_eq_of_lt hmid, Nat.mod_eq_of_lt hlo]
  omega

/-- A word of format B whose counts fit their fields (R83). -/
theorem toNat_encode_sendBreak (hb : b < 2 ^ 8) (hd : d < 2 ^ 8) :
    (encode (.sendBreak b d)).toNat = 1 * 2 ^ 28 + b * 2 ^ 8 + d := by
  simp only [encode, toNat_append_eq_add, BitVec.toNat_ofNat, Nat.mod_eq_of_lt hb, Nat.mod_eq_of_lt hd]
  omega

/-! ## The fields of a word -/

theorem field_lt (w : CmdWord) (hi lo : Nat) : field w hi lo < 2 ^ (hi - lo + 1) := by
  rw [field_eq]
  exact Nat.mod_lt _ (Nat.two_pow_pos _)

theorem fields_operandWord (opcode : BitVec 4) (hmid : mid < 2 ^ 12) (hlo : lo < 2 ^ 16) :
    field (opcode ++ BitVec.ofNat 12 mid ++ BitVec.ofNat 16 lo) 31 28 = opcode.toNat ∧
    field (opcode ++ BitVec.ofNat 12 mid ++ BitVec.ofNat 16 lo) 27 16 = mid ∧
    field (opcode ++ BitVec.ofNat 12 mid ++ BitVec.ofNat 16 lo) 15 0 = lo := by
  have hop := opcode.isLt
  simp only [field_eq, toNat_operandWord opcode hmid hlo]
  omega

theorem fields_encode_sendBreak (hb : b < 2 ^ 8) (hd : d < 2 ^ 8) :
    field (encode (.sendBreak b d)) 31 28 = 1 ∧ field (encode (.sendBreak b d)) 27 16 = 0 ∧
    field (encode (.sendBreak b d)) 15 8 = b ∧ field (encode (.sendBreak b d)) 7 0 = d := by
  simp only [field_eq, toNat_encode_sendBreak hb hd]
  omega

/-- A word of formats C and M is made of its fields. -/
theorem operandWord_fields {opcode : BitVec 4} (hop : field w 31 28 = opcode.toNat) :
    opcode ++ BitVec.ofNat 12 (field w 27 16) ++ BitVec.ofNat 16 (field w 15 0) = w := by
  apply BitVec.eq_of_toNat_eq
  have hw := w.isLt
  rw [toNat_operandWord opcode (field_lt w 27 16) (field_lt w 15 0), ← hop]
  simp only [field_eq]
  omega

/-- A word of format B is made of its fields. -/
theorem encode_sendBreak_fields (hop : field w 31 28 = 1) (hz : field w 27 16 = 0) :
    encode (.sendBreak (field w 15 8) (field w 7 0)) = w := by
  apply BitVec.eq_of_toNat_eq
  have hw := w.isLt
  rw [toNat_encode_sendBreak (field_lt w 15 8) (field_lt w 7 0)]
  simp only [field_eq] at hop hz ⊢
  omega

/-- A word whose lower 28 bits are zero is its opcode. -/
theorem eq_of_opcode {p : CmdWord} {k : Nat} (hop : field w 31 28 = k) (hz : field w 27 0 = 0)
    (hp : p.toNat = k * 2 ^ 28) : p = w := by
  apply BitVec.eq_of_toNat_eq
  have hw := w.isLt
  simp only [field_eq] at hop hz
  omega

/-! ## The round trip -/

/-- Settles O1: the fields of a command's word are its opcode and its operands. -/
theorem decodeOfEncode : Obligations.DecodeOfEncode := by
  intro i hwf
  cases i with
  | sendBreak b d =>
    obtain ⟨hb, hd⟩ : b < 2 ^ 8 ∧ d < 2 ^ 8 := by simpa [Instr.wf] using hwf
    simp [decode, fields_encode_sendBreak hb hd]
  | checkBreak => decide
  | setAutoBaud base n =>
    obtain ⟨hbase, hn⟩ : base < 2 ^ 16 ∧ n < 2 ^ 12 := by simpa [Instr.wf] using hwf
    simp [decode, encode, fields_operandWord _ hn hbase]
  | endFrame => decide
  | read addr size =>
    obtain ⟨haddr, hsize⟩ : addr < 2 ^ 16 ∧ size < 2 ^ 12 := by simpa [Instr.wf] using hwf
    simp [decode, encode, fields_operandWord _ hsize haddr]
  | write addr size =>
    obtain ⟨haddr, hsize⟩ : addr < 2 ^ 16 ∧ size < 2 ^ 12 := by simpa [Instr.wf] using hwf
    simp [decode, encode, fields_operandWord _ hsize haddr]

/-- Settles O2: the operands of a decoded command are fields of the word, which is made of them. -/
theorem encodeOfDecode : Obligations.EncodeOfDecode := by
  intro w i h
  rcases decode_cases w with ⟨hop, hz, hd⟩ | ⟨hop, hz, hd⟩ | ⟨hop, hd⟩ | ⟨hop, hz, hd⟩ | ⟨hop, hd⟩ | ⟨hop, hd⟩ |
    ⟨_, hd⟩ | ⟨_, hd⟩ <;> cases hd.symm.trans h
  · exact ⟨by simpa [Instr.wf] using ⟨field_lt w 15 8, field_lt w 7 0⟩, encode_sendBreak_fields hop hz⟩
  · exact ⟨rfl, eq_of_opcode hop hz rfl⟩
  · exact ⟨by simpa [Instr.wf] using ⟨field_lt w 15 0, field_lt w 27 16⟩, operandWord_fields hop⟩
  · exact ⟨rfl, eq_of_opcode hop hz rfl⟩
  · exact ⟨by simpa [Instr.wf] using ⟨field_lt w 15 0, field_lt w 27 16⟩, operandWord_fields hop⟩
  · exact ⟨by simpa [Instr.wf] using ⟨field_lt w 15 0, field_lt w 27 16⟩, operandWord_fields hop⟩

/-- Settles O5: eight words, decoded. -/
theorem specWordsDecode : Obligations.SpecWordsDecode := by
  unfold Obligations.SpecWordsDecode
  decide

/-! ## The assembler's words (R91) -/

theorem assemble_of_wf {l : AsmLine} (h : l.expand.wf = true) : assemble l = .ok (encode l.expand) := by
  simp [assemble, h]

/-- A number shifted within the word is the shifted number. -/
theorem toNat_ofNat_shiftLeft {n k : Nat} (h : n * 2 ^ k < 2 ^ 32) : (BitVec.ofNat 32 n <<< k).toNat = n <<< k := by
  have hn : n < 2 ^ 32 := (Nat.le_mul_of_pos_right n (Nat.two_pow_pos k)).trans_lt h
  rw [BitVec.toNat_shiftLeft, BitVec.toNat_ofNat, Nat.mod_eq_of_lt hn, Nat.mod_eq_of_lt (Nat.shiftLeft_eq n k ▸ h)]

/-- A word of formats C and M is the opcode word or-ed with its shifted operands. -/
theorem operandWord_eq_or (opcode : BitVec 4) {p : CmdWord} (hp : p.toNat = opcode.toNat <<< 28)
    (hmid : mid < 2 ^ 12) (hlo : lo < 2 ^ 16) :
    opcode ++ BitVec.ofNat 12 mid ++ BitVec.ofNat 16 lo =
      p ||| (BitVec.ofNat 32 mid <<< 16) ||| BitVec.ofNat 32 lo := by
  have hlo' : lo < 2 ^ 32 := by omega
  apply BitVec.eq_of_toNat_eq
  simp only [BitVec.toNat_append, BitVec.toNat_or, BitVec.toNat_ofNat, hp, Nat.mod_eq_of_lt hmid,
    Nat.mod_eq_of_lt hlo, Nat.mod_eq_of_lt hlo']
  rw [toNat_ofNat_shiftLeft (by omega), Nat.shiftLeft_or_distrib, ← Nat.shiftLeft_add]

theorem encode_sendBreak_eq_or (hb : b < 2 ^ 8) (hd : d < 2 ^ 8) :
    encode (.sendBreak b d) = 0x10000000#32 ||| (BitVec.ofNat 32 b <<< 8) ||| BitVec.ofNat 32 d := by
  have hd' : d < 2 ^ 32 := by omega
  apply BitVec.eq_of_toNat_eq
  simp only [encode, BitVec.toNat_append, BitVec.toNat_or, BitVec.toNat_ofNat, Nat.mod_eq_of_lt hb,
    Nat.mod_eq_of_lt hd, Nat.mod_eq_of_lt hd']
  rw [toNat_ofNat_shiftLeft (by omega), Nat.shiftLeft_or_distrib]
  rfl

/-- Settles O6: the word of each form, and the short forms by their expansion. -/
theorem assemblerWords : Obligations.AssemblerWords := by
  refine ⟨fun b d hb hd => ?_, by decide, fun base n hbase hn => ?_, by decide, fun addr size haddr hsize => ?_,
    fun addr size haddr hsize => ?_, by decide, fun b => rfl, fun i hwf => ?_⟩
  · rw [← encode_sendBreak_eq_or hb hd]
    exact assemble_of_wf (by simp [AsmLine.expand, Instr.wf, hb, hd])
  · rw [← operandWord_eq_or 3#4 rfl hn hbase]
    exact assemble_of_wf (by simp [AsmLine.expand, Instr.wf, hbase, hn])
  · rw [← operandWord_eq_or 5#4 rfl hsize haddr]
    exact assemble_of_wf (by simp [AsmLine.expand, Instr.wf, haddr, hsize])
  · rw [← operandWord_eq_or 6#4 rfl hsize haddr]
    exact assemble_of_wf (by simp [AsmLine.expand, Instr.wf, haddr, hsize])
  · simp [assemble, AsmLine.expand, hwf]

end Sys2Proof
end

section
/-! PROOF. The invariant (spec/10_state.md R41): it holds at reset, every step keeps it, and from a state that meets it
every step answers a next state (spec/00_scope.md R11). -/

namespace Sys2Proof.Machine

variable {s t : State} {i : Instr}

/-- Settles O17: the case analysis of a step, with one lemma per operation. -/
theorem stepKeepsInvariant : Obligations.StepKeepsInvariant :=
  fun _ _ => step_keeps_inv

/-! ## Reset -/

/-- Settles O15: `LAST_EDGE` is the parity bit that makes the interval recessive under either `INVERT`. -/
theorem resetStateValues : Obligations.ResetStateValues := by
  have hlevel : State.reset.LastEdgeRecessive := by
    change lineLevel (lastEdgeAtReset Config.params) Config.params.invert = true
    unfold lastEdgeAtReset
    cases Config.params.invert
    · decide
    · decide
  exact ⟨rfl, lastEdgeAtReset_eq_ite Config.params, rfl, rfl, rfl, rfl, rfl, rfl, rfl, rfl, rfl, rfl, hlevel⟩

/-- The OPEN parameters meet their constraints, whatever they are made of (R6). -/
theorem Config.params_legal : Config.params.Legal := by
  have htps : Config.params.tps = 1 + Config.tpsSeed % (2 ^ 32 - 10001) := rfl
  have hqcap : Config.params.qcap = Config.qcapSeed.map (· + 1) := rfl
  refine ⟨by omega, by omega, ?_⟩
  simp [hqcap]

/-- Settles O16: the reset state is quiet, in `READY`. -/
theorem resetMeetsInvariant : Obligations.ResetMeetsInvariant := by
  refine State.Quiet.inv ?_ rfl
  refine { cause := rfl, fault_cmd := rfl, drain := rfl, queue_fits := ?_, cand_wf := rfl, buf_wf := rfl,
           par_legal := Config.params_legal, no_answer := rfl }
  unfold State.queueFits
  split
  · rfl
  · simp [State.reset, State.resetWith]

/-! ## Every step answers -/

/-- A command stops only at an access past its space: in the selection, or where the transport answers (log 13). -/
theorem exec_answers
    (hcand : ∀ base n, i = .setAutoBaud base n → s.phase = .abSelect → candRangeOk base n = true)
    (hbuf : ∀ addr size, i = .read addr size ∨ i = .write addr size → s.phase = .xportWait →
      bufRangeOk addr size = true) : ∃ t, exec i s = .next t := by
  cases i with
  | sendBreak b d =>
    simp only [exec, execSendBreak]
    (repeat' split) <;> exact ⟨_, rfl⟩
  | checkBreak =>
    simp only [exec, execCheckBreak]
    (repeat' split) <;> exact ⟨_, rfl⟩
  | setAutoBaud base n =>
    have hr := hcand base n rfl
    simp only [exec, execSetAutoBaud]
    (repeat' split) <;> simp_all
  | endFrame =>
    simp only [exec, execEndFrame]
    split <;> exact ⟨_, rfl⟩
  | read addr size =>
    have hr := hbuf addr size (.inl rfl)
    simp only [exec, execRead]
    (repeat' split) <;> simp_all
  | write addr size =>
    have hr := hbuf addr size (.inr rfl)
    simp only [exec, execWrite]
    (repeat' split) <;> simp_all

/-- In `READY` a command is at its issue step, which accesses no operand memory. -/
theorem exec_answers_of_ready (hp : s.phase = .ready) : ∃ t, exec i s = .next t :=
  exec_answers (by simp [hp]) (by simp [hp])

/-- A command in progress has passed its range check at issue (R59, R62). -/
theorem exec_answers_of_agrees (h : s.cmdAgrees = true) (hd : decode s.cmd = .ok i) (answer : Option Answer) :
    ∃ t, exec i { s with answer := answer } = .next t := by
  refine exec_answers ?_ ?_
  · rintro base n rfl (hp : s.phase = .abSelect)
    simp only [State.cmdAgrees, hp, hd, Bool.and_eq_true] at h
    exact h.2
  · rintro addr size hi (hp : s.phase = .xportWait)
    rcases hi with rfl | rfl <;> simp only [State.cmdAgrees, hp, hd, Bool.and_eq_true] at h <;> exact h.2

theorem State.continueCommand_answers (h : s.cmdAgrees = true) (answer : Option Answer) :
    ∃ t, s.continueCommand answer = .next t := by
  unfold State.continueCommand
  split
  · rename_i hd
    exact exec_answers_of_agrees h hd answer
  · exact ⟨_, rfl⟩

theorem State.hostMove_answers (a : HostAction) (s : State) : ∃ t, s.hostMove a = .next t := by
  unfold State.hostMove
  split
  · rename_i hp
    cases a with
    | issue =>
      dsimp only
      split
      · exact ⟨_, rfl⟩
      · unfold State.issueCommand
        dsimp only
        split
        · exact exec_answers_of_ready hp
        · exact ⟨_, rfl⟩
    | _ => exact ⟨_, rfl⟩
  · exact ⟨_, rfl⟩

/-- Settles O19: the host, the producer and reset answer in every state, and a command in progress has its operands
within their spaces. -/
theorem stepAlwaysAnswers : Obligations.StepAlwaysAnswers := by
  intro s h
  obtain ⟨ms, d, hs⟩ := s.nextMove_state
  have hagrees : ({ s with moves := ms, drawn := d } : State).cmdAgrees = true := h.cmd_agrees
  unfold step
  rw [hs]
  cases s.nextMove.1 with
  | host a => exact State.hostMove_answers a _
  | block =>
    simp only [State.perform, State.blockMove]
    split
    · exact ⟨_, rfl⟩
    · exact ⟨_, rfl⟩
    · exact State.continueCommand_answers hagrees _
  | transport a =>
    simp only [State.perform, State.transportMove]
    split
    · exact State.continueCommand_answers hagrees _
    · exact State.continueCommand_answers hagrees _
    · exact ⟨_, rfl⟩
  | push e => exact ⟨_, rfl⟩
  | reset => exact ⟨_, rfl⟩

end Sys2Proof.Machine
end

section
/-! PROOF. What one step can do, with a name for each case: `MicroStep` for the micro-step of a command
(spec/10_state.md R27), `Turn` for a step of the machine (spec/00_scope.md R68); and what every micro-step leaves as
it is. -/

namespace Sys2Proof.Machine

variable {s t : State} {i : Instr}

/-! ## The micro-steps of a command -/

/-- The state after the block's pop of the event `e`, which leaves `rest` queued (R53). -/
def State.popped (e : EventWord) (rest : List EventWord) (s : State) : State :=
  { s with q := rest, lastEdge := e, trace := s.trace ++ [.pop e] }

/-- The state after the issue of the word `w`, before its checks, with `later` left of the program (R92). -/
def State.latched (w : CmdWord) (later : List CmdWord) (s : State) : State :=
  { s with program := later, cmd := w }.record (.issue w)

theorem State.emitBreak_trace (b d : Nat) (a : Answer) (s : State) : (s.emitBreak b d a).trace =
    s.trace ++ [.call (.emitPeriod (bitTimes b s.tpb) (bitTimes d s.tpb) s.par.invert), .done .sendBreak none] := by
  simp [State.emitBreak, State.getTicksPerBit]

theorem State.receive_trace (addr size : Nat) (a : Answer) (s : State) : (s.receive addr size a).trace =
    s.trace ++ [.call (.transportRead addr size (received a size)),
      .done .read (some (BitVec.ofNat 32 (received a size).length))] := by
  simp [State.receive]

theorem State.transmit_trace (bytes : List Byte) (size : Nat) (a : Answer) (s : State) :
    (s.transmit bytes size a).trace =
      s.trace ++ [.call (.transportWrite bytes size (accepted a size)),
        .done .write (some (BitVec.ofNat 32 (accepted a size)))] := by
  simp [State.transmit]

/-- The micro-steps of the six commands, each with the phase it is taken in and the state it leaves. -/
inductive MicroStep (s : State) : Instr → State → Prop where
  | fault {i : Instr} (c : Cause) (hp : s.phase = .ready) (hf : issueFault i s.frameState = some c) :
      MicroStep s i (s.raise c)
  | enterScan (hp : s.phase = .ready) : MicroStep s .checkBreak (s.goPhase .cbScan)
  | await {i : Instr} (hp : s.phase = .ready) : MicroStep s i (s.goPhase .xportWait)
  | startAutobaud {base n : Nat} (hp : s.phase = .ready) : MicroStep s (.setAutoBaud base n) s.startAutobaud
  | endFrame (hp : s.phase = .ready) : MicroStep s .endFrame ((s.setFrame .idle).complete .endFrame)
  | emitBreak {b d : Nat} (a : Answer) (hp : s.phase = .xportWait) (ha : s.answer = some a) :
      MicroStep s (.sendBreak b d) (s.emitBreak b d a)
  | receive {addr size : Nat} (a : Answer) (hp : s.phase = .xportWait) (ha : s.answer = some a) :
      MicroStep s (.read addr size) (s.receive addr size a)
  | transmit {addr size : Nat} (bytes : List Byte) (a : Answer) (hp : s.phase = .xportWait) (ha : s.answer = some a) :
      MicroStep s (.write addr size) (s.transmit bytes size a)
  | scanEnds (hp : s.phase = .cbScan) (hq : s.q = []) : MicroStep s .checkBreak (s.completeWith .checkBreak 0)
  | scanFaults (e : EventWord) (rest : List EventWord) (hp : s.phase = .cbScan) (hq : s.q = e :: rest) :
      MicroStep s .checkBreak ((s.popped e rest).raise .zeroTicksPerBit)
  | scanFinds (e : EventWord) (rest : List EventWord) (hp : s.phase = .cbScan) (hq : s.q = e :: rest) :
      MicroStep s .checkBreak (((s.popped e rest).setFrame .inFrame).completeWith .checkBreak 1)
  | scanSkips (e : EventWord) (rest : List EventWord) (hp : s.phase = .cbScan) (hq : s.q = e :: rest) :
      MicroStep s .checkBreak ((s.popped e rest).goPhase .cbScan)
  | detectionFails {base n : Nat} (a : Answer) (hp : s.phase = .abDetect) :
      MicroStep s (.setAutoBaud base n)
        ((({ s.delegate a (.detectRawBaud a.raw) with raw := a.raw } : State).setTicksPerBit s.savedTpb).completeWith
          .setAutoBaud 0)
  | detects {base n : Nat} (a : Answer) (hp : s.phase = .abDetect) :
      MicroStep s (.setAutoBaud base n)
        { s.delegate a (.detectRawBaud a.raw) with raw := a.raw, drainLeft := 3, phase := .abDrain }
  | drains {base n : Nat} (e : EventWord) (rest : List EventWord) (hp : s.phase = .abDrain) (hq : s.q = e :: rest) :
      MicroStep s (.setAutoBaud base n)
        (({ s.popped e rest with drainLeft := s.drainLeft - 1 } : State).goPhase
          (if s.drainLeft - 1 = 0 then .abSelect else .abDrain))
  | aboveCeiling {base n : Nat} (hp : s.phase = .abSelect) :
      MicroStep s (.setAutoBaud base n) ((s.setTicksPerBit s.savedTpb).completeWith .setAutoBaud 0)
  | zeroCandidate {base n : Nat} (hp : s.phase = .abSelect) :
      MicroStep s (.setAutoBaud base n) (s.raise .zeroBaudCandidate)
  | commits {base n : Nat} (sel : Baud) (hp : s.phase = .abSelect) :
      MicroStep s (.setAutoBaud base n)
        ((s.setTicksPerBit (committedTicks s.par sel)).completeWith .setAutoBaud sel)
  | holds {i : Instr} (hp : s.phase ≠ .ready) : MicroStep s i s

/-- Whatever a command's meaning answers is one of its micro-steps. -/
theorem exec_microStep (h : exec i s = .next t) : MicroStep s i t := by
  cases i with
  | sendBreak b d =>
    rcases execSendBreak_cases h with ⟨hp, c, hf, rfl⟩ | ⟨hp, _, rfl⟩ | ⟨a, hp, ha, rfl⟩ | ⟨hp, _, rfl⟩
    · exact .fault c hp hf
    · exact .await hp
    · exact .emitBreak a hp ha
    · exact .holds hp
  | checkBreak =>
    rcases execCheckBreak_cases h with ⟨hp, c, hf, rfl⟩ | ⟨hp, _, rfl⟩ | ⟨hp, hq, rfl⟩ | ⟨e, rest, hp, hq, rfl⟩ |
      ⟨hp, _, rfl⟩
    · exact .fault c hp hf
    · exact .enterScan hp
    · exact .scanEnds hp hq
    · rcases State.judgeInterval_cases s.lastEdge e (s.popped e rest) with ⟨_, ht⟩ | ⟨_, _, ht⟩ | ⟨_, _, ht⟩
      · exact ht ▸ .scanFaults e rest hp hq
      · exact ht ▸ .scanFinds e rest hp hq
      · exact ht ▸ .scanSkips e rest hp hq
    · exact .holds hp
  | setAutoBaud base n =>
    rcases execSetAutoBaud_cases h with ⟨hp, c, hf, rfl⟩ | ⟨hp, _, rfl⟩ | ⟨a, hp, _, rfl⟩ | ⟨hp, hdrain⟩ |
      ⟨sel, hp, _, _, rfl⟩ | ⟨hp, _, _, _, rfl⟩
    · exact .fault c hp hf
    · exact .startAutobaud hp
    · rcases s.detectStep_cases a with ⟨_, ht⟩ | ⟨_, ht⟩
      · exact ht ▸ .detectionFails a hp
      · exact ht ▸ .detects a hp
    · rcases s.drainStep_cases with ⟨_, hs⟩ | ⟨e, rest, hq, hs⟩ <;> rw [hs] at hdrain <;> cases hdrain
      exact .drains e rest hp hq
    · rcases s.settle_cases sel with ⟨_, ht⟩ | ⟨_, ht⟩ | ⟨_, _, ht⟩ <;> rw [ht]
      · exact .aboveCeiling hp
      · exact .zeroCandidate hp
      · exact .commits sel hp
    · exact .holds hp
  | endFrame =>
    rcases execEndFrame_cases h with ⟨hp, rfl⟩ | ⟨hp, rfl⟩
    · exact .endFrame hp
    · exact .holds hp
  | read addr size =>
    rcases execRead_cases h with ⟨hp, c, hf, rfl⟩ | ⟨hp, _, rfl⟩ | ⟨a, hp, ha, _, rfl⟩ | ⟨hp, _, rfl⟩
    · exact .fault c hp hf
    · exact .await hp
    · exact .receive a hp ha
    · exact .holds hp
  | write addr size =>
    rcases execWrite_cases h with ⟨hp, c, hf, rfl⟩ | ⟨hp, _, rfl⟩ | ⟨a, hp, ha, _, rfl⟩ | ⟨hp, _, rfl⟩
    · exact .fault c hp hf
    · exact .await hp
    · exact .transmit _ a hp ha
    · exact .holds hp

/-- What no micro-step writes: the command and what is left of the program, `CAND`, the parameters and the model's own
fields; and the fault record, but for the halt. -/
structure State.Keeps (s t : State) : Prop where
  cmd : t.cmd = s.cmd
  par : t.par = s.par
  cand : t.cand = s.cand
  queueOverflow : t.queueOverflow = s.queueOverflow
  program : t.program = s.program
  nextPrograms : t.nextPrograms = s.nextPrograms
  runEnded : t.runEnded = s.runEnded
  moves : t.moves = s.moves
  drawn : t.drawn = s.drawn
  faultRecord : t.phase ≠ .halted → t.cause = s.cause ∧ t.faultCmd = s.faultCmd

theorem MicroStep.keeps (h : MicroStep s i t) : s.Keeps t := by
  cases h with
  | fault | scanFaults | zeroCandidate => exact ⟨rfl, rfl, rfl, rfl, rfl, rfl, rfl, rfl, rfl, fun hp => absurd rfl hp⟩
  | _ => exact ⟨rfl, rfl, rfl, rfl, rfl, rfl, rfl, rfl, rfl, fun _ => ⟨rfl, rfl⟩⟩

/-- A micro-step other than the transport step of a `read` stores nothing in `BUF`. -/
theorem MicroStep.buf_eq (h : MicroStep s i t)
    (hread : ∀ addr size, i = .read addr size → s.phase = .xportWait → s.answer = none) : t.buf = s.buf := by
  cases h with
  | receive a hp ha => exact absurd ((hread _ _ rfl hp).symm.trans ha) (by simp)
  | _ => rfl

/-! ## A step of the machine -/

/-- The steps of the machine, each with the move it takes and the state it leaves: `ms` and `d` are what taking the move
leaves of the moves. -/
inductive Turn (s : State) : State → Prop where
  | reset (ms : List Move) (d : Nat) (hm : s.nextMove.1 = .reset) :
      Turn s ({ s with moves := ms, drawn := d } : State).applyReset
  | push (ms : List Move) (d : Nat) (e : EventWord) :
      Turn s { s with moves := ms, drawn := d, q := s.q ++ [e], trace := s.trace ++ [.push e] }
  | overflow (ms : List Move) (d : Nat) : Turn s { s with moves := ms, drawn := d, queueOverflow := true }
  | setTpb (ms : List Move) (d : Nat) (v : TicksPerBit) (hp : s.phase = .ready) :
      Turn s (({ s with moves := ms, drawn := d } : State).setTicksPerBit v)
  | writeCand (ms : List Move) (d : Nat) (addr : BitVec 16) (v : Baud) (hm : s.nextMove.1 = .host (.writeCand addr v))
      (hp : s.phase = .ready) : Turn s { s with moves := ms, drawn := d, cand := s.cand.write addr.toNat v }
  | writeBuf (ms : List Move) (d : Nat) (addr : BitVec 16) (v : Byte) (hm : s.nextMove.1 = .host (.writeBuf addr v))
      (hp : s.phase = .ready) : Turn s { s with moves := ms, drawn := d, buf := s.buf.write addr.toNat v }
  | illegal (ms : List Move) (d : Nat) (w : CmdWord) (later : List CmdWord) (hm : s.nextMove.1 = .host .issue)
      (hp : s.phase = .ready) (hw : s.program = w :: later) :
      Turn s ((({ s with moves := ms, drawn := d } : State).latched w later).raise .illegalCommand)
  | issue (ms : List Move) (d : Nat) (w : CmdWord) (later : List CmdWord) (i : Instr) {t : State}
      (hm : s.nextMove.1 = .host .issue) (hp : s.phase = .ready) (hw : s.program = w :: later)
      (h : MicroStep (({ s with moves := ms, drawn := d } : State).latched w later) i t) : Turn s t
  | micro (ms : List Move) (d : Nat) (answer : Option Answer) (i : Instr) {t : State} (hp : s.phase ≠ .ready)
      (hd : decode s.cmd = .ok i) (h : MicroStep { s with moves := ms, drawn := d, answer := answer } i t) : Turn s t
  | idle (ms : List Move) (d : Nat) : Turn s { s with moves := ms, drawn := d }

/-- Every step is one of them. -/
theorem step_turn (h : step s = .next t) : Turn s t := by
  obtain ⟨ms, d, hs⟩ := s.nextMove_state
  obtain ⟨m, s', hnext, hcases⟩ := step_cases h
  obtain rfl : s' = { s with moves := ms, drawn := d } := by rw [← hs, hnext]
  have hm : s.nextMove.1 = m := by rw [hnext]
  rcases hcases with ⟨rfl, rfl⟩ | ⟨e, _, rfl⟩ | ⟨v, _, hp, rfl⟩ | ⟨addr, v, rfl, hp, rfl⟩ | ⟨addr, v, rfl, hp, rfl⟩ |
    ⟨w, later, e, rfl, hp, hw, _, rfl⟩ | ⟨w, later, i, rfl, hp, hw, _, he⟩ | ⟨i, answer, hp, _, hd, _, he⟩ | ⟨_, rfl⟩
  · exact .reset ms d hm
  · rcases State.pushEdge_cases e { s with moves := ms, drawn := d } with ⟨_, ht⟩ | ⟨_, _, ht⟩ | ⟨_, _, ht⟩ <;> rw [ht]
    · exact .idle ms d
    · exact .overflow ms d
    · exact .push ms d e
  · exact .setTpb ms d v hp
  · exact .writeCand ms d addr v hm hp
  · exact .writeBuf ms d addr v hm hp
  · exact .illegal ms d w later hm hp hw
  · exact .issue ms d w later i hm hp hw (exec_microStep he)
  · exact .micro ms d answer i hp hd (exec_microStep he)
  · exact .idle ms d

end Sys2Proof.Machine
end

section
/-! PROOF. Rules of the whole machine: who writes `FRAME_STATE`, `TPB`, `RESULT`, `CAND` and `BUF`, what is constant,
how the host's program is issued, and when a run is over (spec/10_state.md; spec/20_memory.md; spec/00_scope.md R12,
R13). -/

namespace Sys2Proof.Machine

variable {s t : State} {i : Instr}

/-! ## What a micro-step writes, and the event it ends with -/

/-- `FRAME_STATE` is written by `sendBreak`, by a `checkBreak` that found a break, and by `endFrame` (R20, R100). -/
theorem MicroStep.frameState_cases (h : MicroStep s i t) : t.frameState = s.frameState ∨
    (t.frameState = .inFrame ∧ (t.trace.getLast? = some (.done .sendBreak none) ∨
      t.trace.getLast? = some (.done .checkBreak (some 1)))) ∨
    (t.frameState = .idle ∧ t.trace.getLast? = some (.done .endFrame none)) := by
  cases h with
  | endFrame => exact .inr (.inr ⟨rfl, by simp⟩)
  | emitBreak => exact .inr (.inl ⟨rfl, .inl (by simp [State.emitBreak_trace])⟩)
  | scanFinds => exact .inr (.inl ⟨rfl, .inr (by simp)⟩)
  | _ => exact .inl rfl

/-- `TPB` is written by the issue, the detect and the select step of `setAutoBaud`, which record it (R32, R142). -/
theorem MicroStep.tpb_cases (h : MicroStep s i t) : t.tpb = s.tpb ∨
    ((∃ added, t.trace = s.trace ++ added ∧ .setTpb t.tpb ∈ added) ∧
      (s.phase = .ready ∨ s.phase = .abDetect ∨ s.phase = .abSelect)) := by
  cases h with
  | startAutobaud hp => exact .inr ⟨⟨[.setTpb s.par.tpbRef], rfl, by simp [State.startAutobaud]⟩, .inl hp⟩
  | detectionFails a hp =>
    exact .inr ⟨⟨[.call (.detectRawBaud a.raw), .setTpb s.savedTpb, .done .setAutoBaud (some 0)], by simp, by simp⟩,
      .inr (.inl hp)⟩
  | aboveCeiling hp =>
    exact .inr ⟨⟨[.setTpb s.savedTpb, .done .setAutoBaud (some 0)], by simp, by simp⟩, .inr (.inr hp)⟩
  | commits sel hp =>
    exact .inr ⟨⟨[.setTpb (committedTicks s.par sel), .done .setAutoBaud (some sel)], by simp, by simp⟩,
      .inr (.inr hp)⟩
  | _ => exact .inl rfl

/-- `RESULT` is written where one of the four commands with a value completes (R25, R29). -/
theorem MicroStep.result_cases (h : MicroStep s i t) : t.result = s.result ∨
    (t.phase = .ready ∧ ∃ op, (op = .checkBreak ∨ op = .setAutoBaud ∨ op = .read ∨ op = .write) ∧
      t.trace.getLast? = some (.done op (some t.result))) := by
  cases h with
  | receive => exact .inr ⟨rfl, .read, by simp, by simp [State.receive]⟩
  | transmit => exact .inr ⟨rfl, .write, by simp, by simp [State.transmit]⟩
  | scanEnds | scanFinds => exact .inr ⟨rfl, .checkBreak, by simp, by simp⟩
  | detectionFails | aboveCeiling | commits => exact .inr ⟨rfl, .setAutoBaud, by simp, by simp⟩
  | _ => exact .inl rfl

/-- A micro-step adds events at the end of the trace, and no `Issue` among them (R12). -/
theorem MicroStep.trace_cases (h : MicroStep s i t) :
    ∃ added, t.trace = s.trace ++ added ∧ ∀ w, Event.issue w ∉ added := by
  cases h with
  | fault c => exact ⟨[.fault c.code s.cmd], rfl, by simp⟩
  | startAutobaud => exact ⟨[.setTpb s.par.tpbRef], rfl, by simp⟩
  | endFrame => exact ⟨[.done .endFrame none], rfl, by simp⟩
  | emitBreak => exact ⟨_, State.emitBreak_trace .., by simp⟩
  | receive => exact ⟨_, State.receive_trace .., by simp⟩
  | transmit => exact ⟨_, State.transmit_trace .., by simp⟩
  | scanEnds => exact ⟨[.done .checkBreak (some 0)], rfl, by simp⟩
  | scanFaults e => exact ⟨[.pop e, .fault 6 s.cmd], by simp [State.popped, Cause.code], by simp⟩
  | scanFinds e => exact ⟨[.pop e, .done .checkBreak (some 1)], by simp [State.popped], by simp⟩
  | scanSkips e => exact ⟨[.pop e], rfl, by simp⟩
  | detectionFails a =>
    exact ⟨[.call (.detectRawBaud a.raw), .setTpb s.savedTpb, .done .setAutoBaud (some 0)], by simp, by simp⟩
  | detects a => exact ⟨[.call (.detectRawBaud a.raw)], rfl, by simp⟩
  | drains e => exact ⟨[.pop e], rfl, by simp⟩
  | aboveCeiling => exact ⟨[.setTpb s.savedTpb, .done .setAutoBaud (some 0)], by simp, by simp⟩
  | zeroCandidate => exact ⟨[.fault 7 s.cmd], rfl, by simp⟩
  | commits sel =>
    exact ⟨[.setTpb (committedTicks s.par sel), .done .setAutoBaud (some sel)], by simp, by simp⟩
  | enterScan | await | holds => exact ⟨[], by simp, by simp⟩

/-- A micro-step that leaves the block in `READY` completes the command (R29). -/
theorem MicroStep.done_of_ready (h : MicroStep s i t) (ht : t.phase = .ready) :
    ∃ op v, t.trace.getLast? = some (.done op v) := by
  cases h with
  | endFrame => exact ⟨.endFrame, none, by simp⟩
  | emitBreak => exact ⟨.sendBreak, none, by simp [State.emitBreak_trace]⟩
  | receive => exact ⟨.read, _, by simp [State.receive_trace]; rfl⟩
  | transmit => exact ⟨.write, _, by simp [State.transmit_trace]; rfl⟩
  | scanEnds => exact ⟨.checkBreak, some 0, by simp⟩
  | scanFinds => exact ⟨.checkBreak, some 1, by simp⟩
  | detectionFails | aboveCeiling => exact ⟨.setAutoBaud, some 0, by simp⟩
  | commits sel => exact ⟨.setAutoBaud, some sel, by simp⟩
  | drains => simp only [State.goPhase_phase] at ht; split at ht <;> cases ht
  | holds hp => exact absurd ht hp
  | _ => cases ht

/-- The events that leave the queue are its oldest (R54, R179). -/
theorem MicroStep.q_eq_drop (h : MicroStep s i t) : ∃ k, t.q = s.q.drop k := by
  cases h with
  | emitBreak a | receive a | transmit _ a | detectionFails a | detects a => exact ⟨a.consumed, rfl⟩
  | scanFaults e rest _ hq | scanFinds e rest _ hq | scanSkips e rest _ hq | drains e rest _ hq =>
    exact ⟨1, by rw [hq]; rfl⟩
  | _ => exact ⟨0, rfl⟩

/-! ## Who writes what -/

/-- Settles O53: only the micro-steps of three commands, and reset. -/
theorem frameStateWriters : Obligations.FrameStateWriters := by
  intro s t h hne
  cases step_turn h with
  | reset => exact .inr ⟨rfl, .inr (by simp)⟩
  | issue ms d w later i _ _ _ hmicro | micro ms d answer i _ _ hmicro =>
    rcases hmicro.frameState_cases with heq | hin | ⟨hidle, hlast⟩
    · exact absurd heq hne
    · exact .inl hin
    · exact .inr ⟨hidle, .inl hlast⟩
  | _ => exact absurd rfl hne

/-- Settles O54: the host's `setTicksPerBit`, the micro-steps of `setAutoBaud`, and reset. -/
theorem tpbWriters : Obligations.TpbWriters := by
  intro s t h hne
  cases step_turn h with
  | reset ms d hm => exact .inl hm
  | setTpb ms d v hp => exact .inr ⟨⟨[.setTpb v], rfl, by simp⟩, .inl hp⟩
  | issue ms d w later i _ hp _ hmicro =>
    rcases hmicro.tpb_cases with heq | ⟨⟨added, htrace, hmem⟩, _⟩
    · exact absurd heq hne
    · exact .inr ⟨⟨.issue w :: added, by simpa [State.latched] using htrace, List.mem_cons_of_mem _ hmem⟩, .inl hp⟩
  | micro ms d answer i _ _ hmicro =>
    rcases hmicro.tpb_cases with heq | hset
    · exact absurd heq hne
    · exact .inr hset
  | _ => exact absurd rfl hne

/-- Settles O55: the host's writes in `READY`, and the transport step of a `read`. -/
theorem operandMemoryWriters : Obligations.OperandMemoryWriters := by
  intro s t h
  refine ⟨fun hne => ?_, fun hne => ?_⟩
  · cases step_turn h with
    | writeCand ms d addr v hm hp => exact ⟨hp, addr, v, hm⟩
    | issue ms d w later i _ _ _ hmicro | micro ms d answer i _ _ hmicro => exact absurd hmicro.keeps.cand hne
    | _ => exact absurd rfl hne
  · cases step_turn h with
    | writeBuf ms d addr v hm hp => exact .inl ⟨hp, addr, v, hm⟩
    | issue ms d w later i _ hp _ hmicro =>
      refine absurd (hmicro.buf_eq ?_) hne
      rintro _ _ _ (hwait : s.phase = .xportWait)
      cases hp.symm.trans hwait
    | micro ms d answer i _ hd hmicro =>
      by_contra hno
      refine hne (hmicro.buf_eq ?_)
      rintro addr size rfl hwait
      exact absurd (.inr ⟨hwait, addr, size, hd⟩) hno
    | _ => exact absurd rfl hne

/-- Settles O57: the completion of a command with a value, and reset. -/
theorem resultWriters : Obligations.ResultWriters := by
  intro s t h hne
  cases step_turn h with
  | reset => exact .inr (by simp)
  | issue ms d w later i _ _ _ hmicro | micro ms d answer i _ _ hmicro =>
    rcases hmicro.result_cases with heq | hdone
    · exact absurd heq hne
    · exact .inl hdone
  | _ => exact absurd rfl hne

/-! ## Constants and history -/

/-- Settles O56: no step writes the parameters or clears the producer's fault, and each adds its events at the end. -/
theorem constantsAndHistory : Obligations.ConstantsAndHistory := by
  intro s t h
  cases step_turn h with
  | reset => exact ⟨rfl, id, [.reset], rfl⟩
  | push ms d e => exact ⟨rfl, id, [.push e], rfl⟩
  | overflow => exact ⟨rfl, fun _ => rfl, [], by simp⟩
  | setTpb ms d v => exact ⟨rfl, id, [.setTpb v], rfl⟩
  | illegal ms d w => exact ⟨rfl, id, [.issue w, .fault 1 w], by simp [State.latched, Cause.code]⟩
  | issue ms d w later i _ _ _ hmicro =>
    obtain ⟨added, htrace, _⟩ := hmicro.trace_cases
    exact ⟨hmicro.keeps.par, hmicro.keeps.queueOverflow.trans, .issue w :: added,
      by simpa [State.latched] using htrace⟩
  | micro ms d answer i _ _ hmicro =>
    obtain ⟨added, htrace, _⟩ := hmicro.trace_cases
    exact ⟨hmicro.keeps.par, hmicro.keeps.queueOverflow.trans, added, htrace⟩
  | writeCand | writeBuf | idle => exact ⟨rfl, id, [], by simp⟩

/-- Settles O21: the cases of a micro-step, and the block's own pop. -/
theorem queueLosesOnlyItsOldest : Obligations.QueueLosesOnlyItsOldest := by
  refine ⟨fun i s t h => (exec_microStep h).q_eq_drop, fun s => ?_, fun s h => ?_, fun s h => ?_⟩
  · simp [State.edgeAvailable]
  · cases hq : s.q with
    | nil => simp [State.edgeAvailable, hq] at h
    | cons e rest => exact ⟨e, _, State.popEdge_cons hq, rfl, rfl, rfl⟩
  · exact State.popEdge_nil (by simpa [State.edgeAvailable] using h)

/-! ## The host's program and the end of a run -/

/-- Settles O59: only the issue of a word in `READY` and reset touch what is left of the program, and only that issue
records an `Issue`. -/
theorem programIsIssuedInOrder : Obligations.ProgramIsIssuedInOrder := by
  intro s t h
  have hturn := step_turn h
  refine ⟨fun hne => ?_, fun w added htrace => ?_, fun hm => ?_⟩
  · cases hturn with
    | reset ms d hm => exact .inl hm
    | illegal ms d w later hm hp hw =>
      exact .inr ⟨w, [.fault 1 w], hm, hp, hw, rfl, by simp [State.latched, Cause.code], by simp⟩
    | issue ms d w later i hm hp hw hmicro =>
      obtain ⟨added, htrace, hno⟩ := hmicro.trace_cases
      exact .inr ⟨w, added, hm, hp, by rw [hw, hmicro.keeps.program]; rfl, hmicro.keeps.cmd,
        by simpa [State.latched] using htrace, hno⟩
    | micro ms d answer i _ _ hmicro => exact absurd hmicro.keeps.program hne
    | _ => exact absurd rfl hne
  · cases hturn with
    | illegal ms d w' later hm hp hw =>
      obtain ⟨rfl, _⟩ : w' = w ∧ _ := by simpa [State.latched] using htrace
      exact ⟨hp, hw⟩
    | issue ms d w' later i hm hp hw hmicro =>
      obtain ⟨added', htrace', _⟩ := hmicro.trace_cases
      obtain ⟨rfl, _⟩ : w' = w ∧ _ := by simpa [State.latched] using htrace'.symm.trans htrace
      exact ⟨hp, by rw [hw, hmicro.keeps.program]; rfl⟩
    | micro ms d answer i _ _ hmicro =>
      obtain ⟨added', htrace', hno⟩ := hmicro.trace_cases
      obtain rfl : added' = .issue w :: added := List.append_cancel_left (htrace'.symm.trans htrace)
      exact absurd (List.mem_cons_self ..) (hno w)
    | _ => simp at htrace
  · cases hturn with
    | reset ms d hreset => exact absurd hreset hm
    | issue ms d w later i _ _ _ hmicro | micro ms d answer i _ _ hmicro => exact hmicro.keeps.nextPrograms
    | _ => rfl

/-- Whether a run is over does not rest on the moves, the queue, `TPB` or the operand memories; and of the trace only on
the completion of the last command. -/
theorem State.runOver_congr (hphase : t.phase = s.phase) (hprogram : t.program = s.program)
    (hended : t.runEnded = s.runEnded) (hdone : t.lastCommandDone = s.lastCommandDone) : t.runOver = s.runOver := by
  simp only [State.runOver, hphase, hprogram, hended, hdone]

theorem State.lastCommandDone_append (e : Event) (ht : t.trace = s.trace ++ [e]) :
    t.lastCommandDone = Event.updateDone s.lastCommandDone e := by
  rw [State.lastCommandDone, ht, Event.foldl_updateDone_append, State.lastCommandDone]

theorem State.runOver_eq_false_of_phase (hp : s.phase ≠ .ready) : s.runOver = false := by
  simp [State.runOver, hp]

theorem State.runOver_eq_false_of_program {w : CmdWord} {later : List CmdWord} (hw : s.program = w :: later) :
    s.runOver = false := by
  simp [State.runOver, hw]

/-- A step that is no reset leaves a run as over as it was, or is a step of a command; that finds the run not over, and
makes it over only with the command's completion. -/
theorem Turn.runOver_cases (h : Turn s t) (hm : s.nextMove.1 ≠ .reset) : t.runOver = s.runOver ∨
    (s.runOver = false ∧ (t.runOver = true → ∃ op v, t.trace.getLast? = some (.done op v))) := by
  cases h with
  | reset ms d hreset => exact absurd hreset hm
  | push ms d e => exact .inl (State.runOver_congr rfl rfl rfl (State.lastCommandDone_append (.push e) rfl))
  | setTpb ms d v => exact .inl (State.runOver_congr rfl rfl rfl (State.lastCommandDone_append (.setTpb v) rfl))
  | illegal ms d w later _ _ hw =>
    exact .inr ⟨State.runOver_eq_false_of_program hw, fun ht => absurd (State.runOver_iff.1 ht).1 (by simp)⟩
  | issue ms d w later i _ _ hw hmicro =>
    exact .inr ⟨State.runOver_eq_false_of_program hw, fun ht => hmicro.done_of_ready (State.runOver_iff.1 ht).1⟩
  | micro ms d answer i hp _ hmicro =>
    exact .inr ⟨State.runOver_eq_false_of_phase hp, fun ht => hmicro.done_of_ready (State.runOver_iff.1 ht).1⟩
  | _ => exact .inl (State.runOver_congr rfl rfl rfl rfl)

/-- A reset leaves a run over exactly where it was over and no list is left to start (log 2). -/
theorem State.applyReset_runOver_iff : s.applyReset.runOver = true ↔ s.runOver = true ∧ s.nextPrograms = [] := by
  have hdone : s.applyReset.lastCommandDone = false := State.lastCommandDone_append (s := s) .reset rfl
  rw [State.runOver_iff, hdone]
  cases hlists : s.nextPrograms <;> simp [hlists]

theorem step_reset_runOver_iff (hm : s.nextMove.1 = .reset) (h : step s = .next t) :
    t.runOver = true ↔ s.runOver = true ∧ s.nextPrograms = [] := by
  obtain ⟨ms, d, hmove⟩ := s.nextMove_state
  cases (step_of_reset hm).symm.trans h
  rw [hmove]
  exact State.applyReset_runOver_iff (s := { s with moves := ms, drawn := d })

/-- Settles O60: what a step does to the end of a run, by the steps of the machine; the first clauses are the
definition. -/
theorem runEndsWithItsLastCommand : Obligations.RunEndsWithItsLastCommand := by
  refine ⟨fun s => State.runOver_iff, fun s h => ?_, fun s t hs ht h => ?_, fun s t hs hm h => ?_, fun s t hm h => ?_⟩
  · refine State.runOver_eq_false_of_phase fun hp => ?_
    rcases h with h | ⟨h, _⟩ | h | h <;> cases hp.symm.trans h
  · have hm : s.nextMove.1 ≠ .reset := by
      intro hm
      obtain ⟨hover, _⟩ := (step_reset_runOver_iff hm h).1 ht
      exact absurd (hs.symm.trans hover) (by decide)
    rcases (step_turn h).runOver_cases hm with heq | ⟨_, hdone⟩
    · exact absurd (heq.symm.trans ht) (by simp [hs])
    · exact hdone ht
  · rcases (step_turn h).runOver_cases hm with heq | ⟨hnot, _⟩
    · exact heq.trans hs
    · exact absurd (hs.symm.trans hnot) (by decide)
  · exact step_reset_runOver_iff hm h

end Sys2Proof.Machine
end

section
/-! PROOF. The moves of the agents (spec/00_scope.md R5, R92; spec/70_reset_and_hazards.md R195): the host's issue and
writes, the continuation of a command, an agent without a move, the producer's push; and the tick conversions
(spec/60_exceptions.md R172). -/

namespace Sys2Proof.Machine

variable {s : State} {a : Answer} {i : Instr} {rest : List Move}

/-! ## Commands issued and continued -/

/-- Settles O7: the issue takes the word from the program, latches and records it. -/
theorem stepRunsIssuedCommand : Obligations.StepRunsIssuedCommand := by
  intro s w later rest i hm hw hp hd _
  rw [step_of_issue hm hw hp, State.issueCommand_of_decode hd]
  rfl

/-- A command is in progress in every phase but `READY` and `HALTED`. -/
theorem State.inProgress_of_phase {p : Phase} (hp : s.phase = p) (hready : p ≠ .ready := by decide)
    (hhalt : p ≠ .halted := by decide) : s.InProgress := by
  subst hp
  exact ⟨hready, hhalt⟩

/-- The block's move in a phase of a command is the micro-step of the command in `CMD` (R26). -/
theorem step_of_block (hm : s.moves = .block :: rest) (hprog : s.InProgress) (hd : decode s.cmd = .ok i) :
    step s = exec i { s with moves := rest } := by
  obtain ⟨hready, hhalt⟩ := hprog
  rw [step_of_moves hm]
  cases hp : s.phase <;> simp [State.perform, State.blockMove, State.continueCommand, hd, hp] at hready hhalt ⊢

/-- The transport's answer where a delegated call waits is the micro-step of the command in `CMD` (R173). -/
theorem step_of_answer (hm : s.moves = .transport a :: rest) (hp : s.phase = .abDetect ∨ s.phase = .xportWait)
    (hd : decode s.cmd = .ok i) : step s = exec i { s with moves := rest, answer := some a } := by
  rcases hp with hp | hp
  · exact step_of_detection hm hp hd
  · rw [step_of_moves hm]
    simp [State.perform, State.transportMove, State.continueCommand, hp, hd]

/-- Settles O8: the block's own move, and the transport's. -/
theorem stepContinuesCommand : Obligations.StepContinuesCommand :=
  ⟨fun _ _ _ => step_of_block, fun _ _ _ _ => step_of_answer⟩

/-! ## Agents without a move (log 4) -/

/-- Settles O9: each agent by the phases it has a move in; a host without a word has none to issue. -/
theorem agentWithoutMoveChangesNothing : Obligations.AgentWithoutMoveChangesNothing := by
  refine ⟨fun s a rest hm hp => ?_, fun s rest hm hw => ?_, fun s rest hm hp => ?_, fun s a rest hm hdetect hwait => ?_⟩
  all_goals rw [step_of_moves hm]
  · cases hphase : s.phase <;> simp [State.perform, State.hostMove, hphase] at hp ⊢
  · cases hphase : s.phase <;> simp [State.perform, State.hostMove, hw]
  · rcases hp with hp | hp <;> simp [State.perform, State.blockMove, hp]
  · cases hphase : s.phase <;> simp [State.perform, State.transportMove, hphase] at hdetect hwait ⊢

/-! ## The host's writes and the producer's push -/

/-- Settles O10: the host's three writes in `READY`, read back by the law of a memory write. -/
theorem hostWritesInReady : Obligations.HostWritesInReady := by
  refine ⟨fun s v rest hm hp => ?_, fun s addr v rest hm hp => ?_, fun s addr v rest hm hp => ?_⟩
  all_goals rw [step_of_moves hm]
  · simp [State.perform, State.hostMove, hp, State.setTicksPerBit]
  · exact ⟨s.cand.write addr.toNat v, by simp [State.perform, State.hostMove, hp], Memory.read_write_same ..,
      fun b => Memory.read_write_other _ v⟩
  · exact ⟨s.buf.write addr.toNat v, by simp [State.perform, State.hostMove, hp], Memory.read_write_same ..,
      fun b => Memory.read_write_other _ v⟩

theorem State.queueFull_eq_false_iff : s.queueFull = false ↔ ∀ c, s.par.qcap = some c → s.q.length < c := by
  unfold State.queueFull
  cases s.par.qcap <;> simp

theorem State.queueFull_eq_true {c : Nat} (hcap : s.par.qcap = some c) (hfull : c ≤ s.q.length) :
    s.queueFull = true := by
  simp [State.queueFull, hcap, hfull]

theorem State.pushEdge_of_room (e : EventWord) (hno : s.queueOverflow = false) (hroom : s.queueFull = false) :
    s.pushEdge e = { s with q := s.q ++ [e], trace := s.trace ++ [.push e] } := by
  simp [State.pushEdge, hno, hroom]

theorem State.pushEdge_of_full (e : EventWord) (hno : s.queueOverflow = false) (hfull : s.queueFull = true) :
    s.pushEdge e = { s with queueOverflow := true } := by
  simp [State.pushEdge, hno, hfull]

theorem State.pushEdge_of_overflow (e : EventWord) (hover : s.queueOverflow = true) : s.pushEdge e = s := by
  simp [State.pushEdge, hover]

/-- The producer's move is the push, in every state (R55). -/
theorem step_of_push {e : EventWord} (hm : s.moves = .push e :: rest) :
    step s = .next (({ s with moves := rest } : State).pushEdge e) :=
  step_of_moves hm

/-- Settles O20: a push with room, onto a full queue, and by a producer that has faulted. -/
theorem producerPush : Obligations.ProducerPush := by
  intro s e rest hm
  rw [step_of_push hm]
  refine ⟨fun hno hroom => congrArg _ ?_, fun c hno hcap hfull => congrArg _ ?_, fun hover => congrArg _ ?_⟩
  · exact State.pushEdge_of_room e hno (State.queueFull_eq_false_iff.2 hroom)
  · exact State.pushEdge_of_full e hno (State.queueFull_eq_true hcap hfull)
  · exact State.pushEdge_of_overflow e hover

/-! ## The tick conversions (R172) -/

/-- Settles O58: each conversion is a floor, and at a million ticks a second a tick is at most one microsecond. -/
theorem tickConversions : Obligations.TickConversions := by
  refine fun p u => ⟨rfl, fun htps => ?_⟩
  have hpos : 0 < p.tps := by omega
  have hle : u * p.tps / 1000000 * 1000000 ≤ u * p.tps := Nat.div_mul_le_self _ _
  have hlt : u * p.tps < u * p.tps / 1000000 * 1000000 + 1000000 := Nat.lt_div_mul_add (by decide)
  unfold ticksToMicroseconds microsecondsToTicks
  refine ⟨Nat.div_le_of_le_mul (by rwa [Nat.mul_comm p.tps]), ?_⟩
  have hu : (u - 1) * p.tps ≤ u * p.tps / 1000000 * 1000000 := by rw [Nat.sub_mul]; omega
  have := (Nat.le_div_iff_mul_le hpos).2 hu
  omega

end Sys2Proof.Machine
end

section
/-! PROOF. The break detector (spec/41_break_detector.md R122 to R132): the interval the events measure, the micro-steps
of `checkBreak`, whole commands with and without a break, and the frame. -/

namespace Sys2Proof.Machine

variable {s t : State} {e : EventWord} {q : List EventWord} {rest : List Move}

/-! ## The measured interval (R55, R122) -/

/-- The line rises at the end: the word of `e` is its tick rounded up to odd, the word of `p` its tick rounded down to
even. -/
theorem interval_of_rise {e p : Transition} (hf : e.Follows p) (he : e.level = true) :
    interval e.word p.word = (e.tick - p.tick + (1 - e.tick % 2 + p.tick % 2)) % 2 ^ 32 := by
  obtain ⟨hle, _, hne⟩ := hf
  have hp : p.level = false := by simpa [he] using hne.symm
  simp only [interval, Transition.word, he, hp, BitVec.toNat_sub, BitVec.toNat_ofNat, Bool.toNat_true, Bool.toNat_false]
  omega

/-- The line falls at the end: the roundings are the other way. -/
theorem interval_of_fall {e p : Transition} (hf : e.Follows p) (he : e.level = false) :
    (interval e.word p.word + (e.tick % 2 + (1 - p.tick % 2))) % 2 ^ 32 = e.tick - p.tick := by
  obtain ⟨hle, hlt, hne⟩ := hf
  have hp : p.level = true := by simpa [he] using hne.symm
  simp only [interval, Transition.word, he, hp, BitVec.toNat_sub, BitVec.toNat_ofNat, Bool.toNat_true, Bool.toNat_false]
  omega

/-- The parity of a transition's word is the level after it (R55 (b)). -/
theorem parity_word (p : Transition) : parity p.word = p.level := by
  rw [parity, Transition.word, BitVec.getLsbD_ofNat, Nat.testBit_zero]
  cases p.level <;> simp

/-- Settles O25: each of the two words is off from its tick by at most one, and the two errors add up. -/
theorem measuredInterval : Obligations.MeasuredInterval :=
  fun _ _ hf => ⟨fun he => ⟨_, by omega, interval_of_rise hf he⟩, fun he => ⟨_, by omega, interval_of_fall hf he⟩⟩

/-! ## The micro-steps of `checkBreak` -/

theorem isBreak_iff {level : Bool} {bits : Nat} : isBreak level bits = true ↔ level = false ∧ 13 ≤ bits := by
  rw [isBreak, Bool.and_eq_true, decide_eq_true_eq, Bool.not_eq_true', Config.breakMinBits]

theorem isBreak_eq_false_iff {level : Bool} {bits : Nat} :
    isBreak level bits = false ↔ ¬ (level = false ∧ 13 ≤ bits) := by
  rw [← isBreak_iff, Bool.not_eq_true]

/-- The interval that the oldest queued event ends is the first a scan measures. -/
theorem State.breakAt_zero (hq : s.q = e :: q) : s.breakAt 0 =
    isBreak (lineLevel s.lastEdge s.par.invert) (bitCount (interval e s.lastEdge) s.tpb.toNat) := by
  simp [State.breakAt, hq]

theorem exec_checkBreak_of_ready (hp : s.phase = .ready) (hf : s.frameState = .idle) :
    exec .checkBreak s = .next { s with phase := .cbScan } := by
  simp [exec, execCheckBreak, hp, hf, issueFault, requiredFrame, Instr.op, State.goPhase]

/-- The scan step with no event queued (R126). -/
theorem exec_checkBreak_of_nil (hp : s.phase = .cbScan) (hq : s.q = []) : exec .checkBreak s = .next { s with
    result := 0, phase := .ready, trace := s.trace ++ [.done .checkBreak (some 0)] } := by
  simp [exec, execCheckBreak, hp, State.scanStep, State.popEdge_nil hq, State.completeWith]

/-- The scan step with an event queued pops it, then judges the interval it ends. -/
theorem exec_checkBreak_of_cons (hp : s.phase = .cbScan) (hq : s.q = e :: q) :
    exec .checkBreak s = .next ((s.popped e q).judgeInterval s.lastEdge e) := by
  simp [exec, execCheckBreak, hp, State.scanStep, State.popEdge_cons hq, State.popped]

theorem exec_checkBreak_of_zeroTpb (hp : s.phase = .cbScan) (hq : s.q = e :: q) (htpb : s.tpb = 0) :
    exec .checkBreak s = .next { s with
      q := q, lastEdge := e, cause := 6, faultCmd := s.cmd, phase := .halted,
      trace := s.trace ++ [.pop e, .fault 6 s.cmd] } := by
  rw [exec_checkBreak_of_cons hp hq]
  rcases State.judgeInterval_cases s.lastEdge e (s.popped e q) with ⟨_, ht⟩ | ⟨hne, _, _⟩ | ⟨hne, _, _⟩
  · rw [ht]
    simp [State.popped, State.raise, Cause.code]
  · exact absurd htpb hne
  · exact absurd htpb hne

theorem exec_checkBreak_of_break (hp : s.phase = .cbScan) (hq : s.q = e :: q) (htpb : s.tpb ≠ 0)
    (hbreak : s.breakAt 0 = true) : exec .checkBreak s = .next { s with
      q := q, lastEdge := e, frameState := .inFrame, result := 1, phase := .ready,
      trace := s.trace ++ [.pop e, .done .checkBreak (some 1)] } := by
  rw [State.breakAt_zero hq] at hbreak
  rw [exec_checkBreak_of_cons hp hq]
  rcases State.judgeInterval_cases s.lastEdge e (s.popped e q) with ⟨hzero, _⟩ | ⟨_, _, ht⟩ | ⟨_, hno, _⟩
  · exact absurd hzero htpb
  · rw [ht]
    simp [State.popped, State.setFrame, State.completeWith]
  · exact absurd (hbreak.symm.trans hno) (by decide)

theorem exec_checkBreak_of_noBreak (hp : s.phase = .cbScan) (hq : s.q = e :: q) (htpb : s.tpb ≠ 0)
    (hbreak : s.breakAt 0 = false) : exec .checkBreak s = .next { s with
      q := q, lastEdge := e, trace := s.trace ++ [.pop e] } := by
  rw [State.breakAt_zero hq] at hbreak
  rw [exec_checkBreak_of_cons hp hq]
  rcases State.judgeInterval_cases s.lastEdge e (s.popped e q) with ⟨hzero, _⟩ | ⟨_, hyes, _⟩ | ⟨_, _, ht⟩
  · exact absurd hzero htpb
  · exact absurd (hyes.symm.trans hbreak) (by decide)
  · rw [ht]
    simp [State.popped, State.goPhase, hp]

/-- Settles O27: the issue, the scan without an event, and the three judgements of a scan with one. -/
theorem checkBreakSteps : Obligations.CheckBreakSteps := by
  refine ⟨fun s => exec_checkBreak_of_ready, fun s => exec_checkBreak_of_nil, fun s e q hp hq => ?_⟩
  refine ⟨exec_checkBreak_of_zeroTpb hp hq, fun htpb hdom hbits => ?_, fun htpb hno => ?_⟩
  · exact exec_checkBreak_of_break hp hq htpb ((State.breakAt_zero hq).trans (isBreak_iff.2 ⟨hdom, hbits⟩))
  · exact exec_checkBreak_of_noBreak hp hq htpb ((State.breakAt_zero hq).trans (isBreak_eq_false_iff.2 hno))

/-- Settles O26: a dominant interval is measured too long by at most two ticks, never too short. -/
theorem trueBreakIsDetected : Obligations.TrueBreakIsDetected := by
  intro s p e rest hp hinv htpb hlast hq hf hlow hroom
  have hpos : 0 < s.tpb.toNat := Nat.pos_of_ne_zero fun h => htpb (BitVec.eq_of_toNat_eq h)
  have hhigh : e.level = true := by
    obtain ⟨_, _, hne⟩ := hf
    simpa [hlow] using hne
  have hdominant : lineLevel s.lastEdge s.par.invert = false := by
    simp [lineLevel, hlast, parity_word, hlow, hinv]
  have hinterval := interval_of_rise hf hhigh
  rw [Nat.mod_eq_of_lt (by omega)] at hinterval
  rw [← hlast] at hinterval
  have hbreak := State.breakAt_zero hq
  refine ⟨fun hlong => ⟨_, exec_checkBreak_of_break hp hq htpb ?_, rfl, rfl, rfl, rfl⟩,
    fun hshort => ⟨_, exec_checkBreak_of_noBreak hp hq htpb ?_, rfl, hp, rfl⟩⟩
  · refine hbreak.trans (isBreak_iff.2 ⟨hdominant, (thirteen_le_bitCount_iff hpos).2 ?_⟩)
    omega
  · refine hbreak.trans (isBreak_eq_false_iff.2 fun ⟨_, hbits⟩ => ?_)
    have := (thirteen_le_bitCount_iff hpos).1 hbits
    omega

/-! ## Whole commands (R125, R126, R129, R130) -/

/-- A run of one step. -/
theorem core_run_one_of_step (h : step s = .next t) : core.run 1 s = .next t :=
  core_run_succ_of_step h rfl

/-- The intervals a scan measures after a pop are the further ones of before. -/
theorem State.breakAt_succ (hq : s.q = e :: q) (ms : List Move) (j : Nat) :
    s.breakAt (j + 1) = ({ s.popped e q with moves := ms } : State).breakAt j := by
  simp [State.breakAt, State.popped, hq]

/-- A scan step over an interval that is no break. -/
theorem step_of_scan_skip (hm : s.moves = .block :: rest) (hp : s.phase = .cbScan)
    (hd : decode s.cmd = .ok .checkBreak) (hq : s.q = e :: q) (htpb : s.tpb ≠ 0) (hbreak : s.breakAt 0 = false) :
    step s = .next { s.popped e q with moves := rest } := by
  rw [step_of_block hm (State.inProgress_of_phase hp) hd]
  exact exec_checkBreak_of_noBreak hp hq htpb hbreak

/-- The state after the issue of a `checkBreak` that passes its check. -/
def State.scanning (s : State) (later : List CmdWord) (rest : List Move) : State :=
  { s with
    moves := rest, program := later, cmd := 0x20000000, phase := .cbScan, trace := s.trace ++ [.issue 0x20000000] }

theorem decode_checkBreak : decode 0x20000000 = .ok .checkBreak := by decide

theorem step_of_checkBreak_issue {later : List CmdWord} (hm : s.moves = .host .issue :: rest)
    (hw : s.program = 0x20000000 :: later) (hp : s.phase = .ready) (hf : s.frameState = .idle) :
    step s = .next (s.scanning later rest) := by
  rw [step_of_issue hm hw hp, State.issueCommand_of_decode decode_checkBreak]
  exact exec_checkBreak_of_ready hp hf

/-- A scan that has its first break at the interval `j` ends with it. -/
theorem run_scan_finds : ∀ (j : Nat) (s : State), s.phase = .cbScan → decode s.cmd = .ok .checkBreak → s.tpb ≠ 0 →
    s.moves = List.replicate (j + 1) .block ++ rest → s.breakAt j = true → (∀ k, k < j → s.breakAt k = false) →
    ∃ t, core.run (j + 1) s = .next t ∧ t.frameState = .inFrame ∧ t.result = 1 ∧ t.phase = .ready ∧
      some t.lastEdge = s.q[j]? ∧ t.q = s.q.drop (j + 1) ∧ t.tpb = s.tpb ∧ t.program = s.program ∧ t.moves = rest := by
  intro j
  induction j with
  | zero =>
    intro s hp hd htpb hm hbreak hfirst
    cases hq : s.q with
    | nil => simp [State.breakAt, hq] at hbreak
    | cons e q =>
      have hstep : step s = _ := (step_of_block hm (State.inProgress_of_phase hp) hd).trans
        (exec_checkBreak_of_break hp hq htpb hbreak)
      exact ⟨_, core_run_one_of_step hstep, rfl, rfl, rfl, rfl, rfl, rfl, rfl, rfl⟩
  | succ j ih =>
    intro s hp hd htpb hm hbreak hfirst
    cases hq : s.q with
    | nil => simp [State.breakAt, hq] at hbreak
    | cons e q =>
      obtain ⟨t, hrun, ht⟩ := ih { s.popped e q with moves := List.replicate (j + 1) .block ++ rest } hp hd htpb rfl
        ((State.breakAt_succ hq _ j).symm.trans hbreak)
        (fun k hk => (State.breakAt_succ hq _ k).symm.trans (hfirst (k + 1) (by omega)))
      exact ⟨t, core_run_succ_of_step (step_of_scan_skip hm hp hd hq htpb (hfirst 0 (by omega))) hrun, ht⟩

/-- A scan of `n` events that end no break takes them all, and ends. -/
theorem run_scan_ends : ∀ (q : List EventWord) (s : State), s.q = q → s.phase = .cbScan →
    decode s.cmd = .ok .checkBreak → s.tpb ≠ 0 → s.moves = List.replicate (q.length + 1) .block ++ rest →
    (∀ k, s.breakAt k = false) →
    ∃ t, core.run (q.length + 1) s = .next t ∧ t.frameState = s.frameState ∧ t.result = 0 ∧ t.phase = .ready ∧
      t.q = [] ∧ some t.lastEdge = (s.lastEdge :: q).getLast? ∧ t.tpb = s.tpb ∧ t.program = s.program ∧
      t.moves = rest := by
  intro q
  induction q with
  | nil =>
    intro s hq hp hd htpb hm hno
    have hstep : step s = _ := (step_of_block hm (State.inProgress_of_phase hp) hd).trans
      (exec_checkBreak_of_nil hp hq)
    exact ⟨_, core_run_one_of_step hstep, rfl, rfl, rfl, hq, rfl, rfl, rfl, rfl⟩
  | cons e q ih =>
    intro s hq hp hd htpb hm hno
    obtain ⟨t, hrun, ht⟩ := ih { s.popped e q with moves := List.replicate (q.length + 1) .block ++ rest } rfl hp hd
      htpb rfl (fun k => (State.breakAt_succ hq _ k).symm.trans (hno (k + 1)))
    exact ⟨t, core_run_succ_of_step (step_of_scan_skip hm hp hd hq htpb (hno 0)) hrun, by
      rw [List.getLast?_cons_cons]; exact ht⟩

/-- Settles O28: the issue, then the scan up to its first break. -/
theorem checkBreakFindsFirstBreak : Obligations.CheckBreakFindsFirstBreak := by
  intro s j later rest hp hf htpb hw hm hbreak hfirst
  obtain ⟨t, hrun, ht⟩ := run_scan_finds j (s.scanning later _) rfl decode_checkBreak htpb rfl hbreak hfirst
  exact ⟨t, core_run_succ_of_step (step_of_checkBreak_issue hm hw hp hf) hrun, ht⟩

/-- Settles O29: the issue, then the scan of the whole queue. -/
theorem checkBreakWithoutBreak : Obligations.CheckBreakWithoutBreak := by
  intro s later rest hp hf htpb hw hm hno
  obtain ⟨t, hrun, hframe, ht⟩ := run_scan_ends s.q (s.scanning later _) rfl rfl decode_checkBreak htpb rfl hno
  exact ⟨t, core_run_succ_of_step (step_of_checkBreak_issue hm hw hp hf) hrun, hframe.trans hf, ht⟩

/-! ## A push during the scan (R126, R131) -/

/-- What a push adds to an unbounded queue: nothing, once the producer has faulted (log 7). -/
def State.pushed (e : EventWord) (s : State) : List EventWord :=
  if s.queueOverflow then [] else [e]

theorem State.pushed_congr (h : t.queueOverflow = s.queueOverflow) : t.pushed e = s.pushed e := by
  rw [State.pushed, h, State.pushed]

theorem State.pushEdge_of_unbounded (e : EventWord) (hcap : s.par.qcap = none) :
    s.pushEdge e = { s with q := s.q ++ s.pushed e, trace := s.trace ++ (s.pushed e).map .push } := by
  have hroom : s.queueFull = false := by simp [State.queueFull, hcap]
  unfold State.pushed
  by_cases hover : s.queueOverflow = true
  · rw [State.pushEdge_of_overflow e hover, if_pos hover]
    simp
  · rw [State.pushEdge_of_room e (by simpa using hover) hroom, if_neg hover]
    simp

/-- The judgement of an interval does not look at the queue, the trace or the moves. -/
theorem State.judgeInterval_with (p e : EventWord) (s : State) (l : List EventWord) (tr : List Event)
    (ms : List Move) :
    { ({ s with q := s.q ++ l, trace := tr, moves := ms } : State).judgeInterval p e with trace := [] } =
      { s.judgeInterval p e with q := (s.judgeInterval p e).q ++ l, trace := [], moves := ms } := by
  unfold State.judgeInterval State.getTicksPerBit
  dsimp only
  split_ifs <;> rfl

theorem State.judgeInterval_keeps (p e : EventWord) (s : State) : (s.judgeInterval p e).par = s.par ∧
    (s.judgeInterval p e).queueOverflow = s.queueOverflow ∧ (s.judgeInterval p e).moves = s.moves := by
  rcases s.judgeInterval_cases p e with ⟨_, ht⟩ | ⟨_, _, ht⟩ | ⟨_, _, ht⟩ <;> rw [ht] <;> exact ⟨rfl, rfl, rfl⟩

theorem step_of_push_unbounded (hm : s.moves = .push e :: rest) (hcap : s.par.qcap = none) :
    step s = .next { s with
      moves := rest, q := s.q ++ s.pushed e, trace := s.trace ++ (s.pushed e).map .push } :=
  (step_of_push hm).trans (congrArg _ (State.pushEdge_of_unbounded e hcap))

theorem step_of_scan (hm : s.moves = .block :: rest) (hp : s.phase = .cbScan) (hd : decode s.cmd = .ok .checkBreak)
    (hq : s.q = e :: q) :
    step s = .next ((({ s with moves := rest } : State).popped e q).judgeInterval s.lastEdge e) :=
  (step_of_block hm (State.inProgress_of_phase hp) hd).trans (exec_checkBreak_of_cons hp hq)

/-- Settles O30: the scan pops the oldest event, and judges it by what a push does not touch. -/
theorem pushCommutesWithScan : Obligations.PushCommutesWithScan := by
  intro s e rest hp hd hq hcap
  obtain ⟨f, q, hq⟩ := List.exists_cons_of_ne_nil hq
  have hq' : s.q ++ s.pushed e = f :: (q ++ s.pushed e) := by rw [hq, List.cons_append]
  obtain ⟨hpar, hover, hmoves⟩ :=
    (({ s with moves := .push e :: rest } : State).popped f q).judgeInterval_keeps s.lastEdge f
  refine ⟨_, _, core_run_succ_of_step (step_of_push_unbounded rfl hcap)
    (core_run_one_of_step (step_of_scan rfl hp hd hq')),
    core_run_succ_of_step (step_of_scan rfl hp hd hq)
      (core_run_one_of_step (step_of_push_unbounded hmoves ((congrArg Params.qcap hpar).trans hcap))), ?_⟩
  rw [State.pushed_congr hover]
  exact State.judgeInterval_with s.lastEdge f (({ s with moves := .push e :: rest } : State).popped f q) (s.pushed e)
    (s.trace ++ (s.pushed e).map .push ++ [.pop f]) rest

/-! ## The frame (R125) -/

/-- Settles O31: by the micro-steps of `checkBreak`. -/
theorem checkBreakFrame : Obligations.CheckBreakFrame := by
  intro s t h
  have hmicro := exec_microStep h
  obtain ⟨hcmd, hpar, hcand, hoverflow, hprogram, hnext, hended, hmoves, hdrawn, hfault⟩ := hmicro.keeps
  have hbuf : t.buf = s.buf := hmicro.buf_eq (by simp)
  have hrest : t.savedTpb = s.savedTpb ∧ t.raw = s.raw ∧ t.drainLeft = s.drainLeft ∧ t.tpb = s.tpb ∧
      t.answer = s.answer := by
    cases hmicro <;> exact ⟨rfl, rfl, rfl, rfl, rfl⟩
  obtain ⟨hsaved, hraw, hdrain, htpb, hanswer⟩ := hrest
  refine ⟨hsaved, hraw, hdrain, hcmd, htpb, hpar, by simp [hcand], by simp [hbuf], hoverflow, hanswer, hprogram, hnext,
    hended, hmoves, hdrawn, hfault, fun hscan => ?_, fun hframe => ?_, fun hready => ?_⟩
  · cases hmicro with
    | scanEnds hp | scanFaults _ _ hp | scanFinds _ _ hp | scanSkips _ _ hp => exact absurd hp hscan
    | _ => exact ⟨rfl, rfl, rfl, rfl⟩
  · cases hmicro with
    | scanFinds => exact ⟨rfl, rfl⟩
    | _ => exact absurd rfl hframe
  · cases hmicro with
    | scanEnds | scanFinds => exact absurd rfl hready
    | _ => rfl

end Sys2Proof.Machine
end

section
/-! PROOF. The operations the transport answers (spec/40_frame_lifecycle.md R101 to R106): `sendBreak`, `read` and
`write`, micro-step by micro-step, with their frames, and the ranges of `BUF` they store and hand over
(spec/20_memory.md R61). -/

namespace Sys2Proof.Machine

variable {α : Type} {s t : State} {a : Answer} {addr size : Nat}

/-! ## Ranges of an operand memory (R59, R61) -/

/-- A write of consecutive units leaves every unit outside them. -/
theorem Memory.read_writeRange_outside (vs : List α) : ∀ {m : Memory α} {addr b : Nat},
    b < addr ∨ addr + vs.length ≤ b → (m.writeRange addr vs).read b = m.read b := by
  induction vs with
  | nil => intro _ _ _ _; rfl
  | cons v vs ih =>
    intro m addr b hb
    simp only [List.length_cons] at hb
    rw [Memory.writeRange, ih (by omega), Memory.read_write_other m v (by omega)]

/-- Each unit of a range just written holds its value. -/
theorem Memory.read_writeRange_inside (vs : List α) : ∀ {m : Memory α} {addr k : Nat},
    k < vs.length → (m.writeRange addr vs).read (addr + k) = vs[k]? := by
  induction vs with
  | nil => intro _ _ _ hk; simp at hk
  | cons v vs ih =>
    intro m addr k hk
    cases k with
    | zero => rw [Memory.writeRange, Memory.read_writeRange_outside vs (by omega)]; simp
    | succ k =>
      rw [Memory.writeRange, ← Nat.add_assoc, Nat.add_right_comm, ih (by simpa using hk), List.getElem?_cons_succ]

/-- Settles O40: the units of the range one by one, and the units outside it. -/
theorem rangeReadsBack : Obligations.RangeReadsBack := by
  refine ⟨fun m addr bytes => ?_, fun m addr bytes b => Memory.read_writeRange_outside bytes⟩
  apply List.ext_getElem?
  intro k
  by_cases hk : k < bytes.length
  · have hread := Memory.read_writeRange_inside bytes (m := m) (addr := addr) hk
    rw [Memory.readRange_getElem? _ _ hk, Memory.content_of_read (hread.trans (List.getElem?_eq_getElem hk)),
      List.getElem?_eq_getElem hk]
  · simp [Nat.not_lt.1 hk]

/-! ## sendBreak (R101) -/

theorem exec_sendBreak_of_answer {b d : Nat} (hp : s.phase = .xportWait) (ha : s.answer = some a) :
    exec (.sendBreak b d) s = .next (s.emitBreak b d a) := by
  simp [exec, execSendBreak, hp, ha]

/-- Settles O32: the issue, the hold, and the transport's answer. -/
theorem sendBreakSteps : Obligations.SendBreakSteps := by
  refine fun b d s => ⟨fun hp hf => ?_, fun hp ha => ?_, fun a hp ha => ?_⟩
  · simp [exec, execSendBreak, hp, hf, issueFault, requiredFrame, Instr.op, State.goPhase]
  · simp [exec, execSendBreak, hp, ha]
  · rw [exec_sendBreak_of_answer hp ha, ← List.drop_eq_drop_min]
    simp [State.emitBreak, State.delegate, State.setFrame, State.complete, State.getTicksPerBit, bitTimes]

/-- Settles O33: by the micro-steps of `sendBreak`. -/
theorem sendBreakFrame : Obligations.SendBreakFrame := by
  intro b d s t h
  have hmicro := exec_microStep h
  obtain ⟨hcmd, hpar, hcand, hoverflow, hprogram, hnext, hended, hmoves, hdrawn, hfault⟩ := hmicro.keeps
  have hbuf : t.buf = s.buf := hmicro.buf_eq (by simp)
  have hrest : t.savedTpb = s.savedTpb ∧ t.raw = s.raw ∧ t.drainLeft = s.drainLeft ∧ t.result = s.result ∧
      t.tpb = s.tpb := by
    cases hmicro <;> exact ⟨rfl, rfl, rfl, rfl, rfl⟩
  obtain ⟨hsaved, hraw, hdrain, hresult, htpb⟩ := hrest
  refine ⟨hsaved, hraw, hdrain, hresult, hcmd, htpb, hpar, by simp [hcand], by simp [hbuf], hoverflow, hprogram, hnext,
    hended, hmoves, hdrawn, hfault, fun hwait => ?_, fun hframe => ?_⟩
  · cases hmicro with
    | emitBreak _ hp => exact absurd hp hwait
    | _ => exact ⟨rfl, rfl, rfl, rfl⟩
  · cases hmicro with
    | emitBreak => exact ⟨rfl, rfl⟩
    | _ => exact absurd rfl hframe

/-! ## read (R104, R105) -/

theorem issueFault_read_eq_none (hrange : addr + size ≤ Config.bufBytes) :
    issueFault (.read addr size) .inFrame = none := by
  simp [issueFault, requiredFrame, Instr.op, bufRangeOk, hrange]

theorem exec_read_of_answer (hp : s.phase = .xportWait) (ha : s.answer = some a)
    (hrange : addr + size ≤ Config.bufBytes) : exec (.read addr size) s = .next (s.receive addr size a) := by
  simp [exec, execRead, hp, ha, bufRangeOk, hrange]

/-- A count of bytes within `BUF` fits `RESULT`. -/
theorem toNat_ofNat_count {c : Nat} (hc : c ≤ size) (hrange : addr + size ≤ 65536) :
    (BitVec.ofNat 32 c).toNat = c := by
  rw [BitVec.toNat_ofNat, Nat.mod_eq_of_lt (by omega)]

/-- Settles O35: the issue, the hold, and the transport's answer, whose bytes are written to a range of `BUF`. -/
theorem readStoresReceivedBytes : Obligations.ReadStoresReceivedBytes := by
  refine fun addr size s hrange => ⟨fun hp hf => ?_, fun hp ha => ?_, fun a hp ha => ?_⟩
  · simp [exec, execRead, hp, hf, issueFault_read_eq_none hrange, State.goPhase]
  · simp [exec, execRead, hp, ha]
  · have hlen : (received a size).length = min size a.bytes.length := List.length_take
    refine ⟨s.buf.writeRange addr (received a size), ?_, toNat_ofNat_count (Nat.min_le_left _ _) hrange, fun k hk => ?_,
      fun b hb => ?_⟩
    · rw [exec_read_of_answer hp ha hrange, ← List.drop_eq_drop_min, ← hlen]
      simp [State.receive, State.delegate, State.completeWith, received]
    · rw [Memory.read_writeRange_inside _ (hlen ▸ hk), received, List.getElem?_take_of_lt (by omega)]
    · exact Memory.read_writeRange_outside _ (hlen ▸ hb)

/-- Settles O36: by the micro-steps of `read`; the transport step stores the bytes received and no others. -/
theorem readFrame : Obligations.ReadFrame := by
  intro addr size s t h
  have hmicro := exec_microStep h
  obtain ⟨hcmd, hpar, hcand, hoverflow, hprogram, hnext, hended, hmoves, hdrawn, hfault⟩ := hmicro.keeps
  have hrest : t.frameState = s.frameState ∧ t.savedTpb = s.savedTpb ∧ t.raw = s.raw ∧ t.drainLeft = s.drainLeft ∧
      t.tpb = s.tpb := by
    cases hmicro <;> exact ⟨rfl, rfl, rfl, rfl, rfl⟩
  obtain ⟨hframe, hsaved, hraw, hdrain, htpb⟩ := hrest
  refine ⟨hframe, hsaved, hraw, hdrain, hcmd, htpb, hpar, by simp [hcand], hoverflow, hprogram, hnext, hended, hmoves,
    hdrawn, hfault, fun a _ ha b hb => ?_, fun hno => ?_⟩
  · cases hmicro with
    | receive a' _ ha' =>
      cases ha.symm.trans ha'
      exact Memory.read_writeRange_outside _ hb
    | _ => rfl
  · cases hmicro with
    | receive a hp ha => simp [hp, ha] at hno
    | _ => exact ⟨fun _ => rfl, rfl, rfl, rfl, rfl⟩

/-! ## write (R104, R106) -/

theorem issueFault_write_eq_none (hrange : addr + size ≤ Config.bufBytes) :
    issueFault (.write addr size) .inFrame = none := by
  simp [issueFault, requiredFrame, Instr.op, bufRangeOk, hrange]

theorem exec_write_of_answer (hp : s.phase = .xportWait) (ha : s.answer = some a)
    (hrange : addr + size ≤ Config.bufBytes) :
    exec (.write addr size) s = .next (s.transmit (s.readBuf addr size) size a) := by
  simp [exec, execWrite, hp, ha, bufRangeOk, hrange]

/-- Settles O37: the issue, the hold, and the transport's answer, which takes the contents of a range of `BUF`. -/
theorem writeAnswersAcceptedCount : Obligations.WriteAnswersAcceptedCount := by
  refine fun addr size s hrange => ⟨fun hp hf => ?_, fun hp ha => ?_, fun a hp ha => ?_⟩
  · simp [exec, execWrite, hp, hf, issueFault_write_eq_none hrange, State.goPhase]
  · simp [exec, execWrite, hp, ha]
  · refine ⟨s.readBuf addr size, ?_, toNat_ofNat_count (Nat.min_le_right _ _) hrange, Memory.readRange_length ..,
      fun k => Memory.readRange_getElem? _ s.buf⟩
    rw [exec_write_of_answer hp ha hrange, ← List.drop_eq_drop_min]
    simp [State.transmit, State.delegate, State.completeWith, accepted]

/-- Reading a range after one of its units was written gives the range with that unit replaced. -/
theorem Memory.readRange_write (free : Nat → α) (m : Memory α) (addr n k : Nat) (v : α) :
    (m.write (addr + k) v).readRange free addr n = (m.readRange free addr n).set k v := by
  apply List.ext_getElem?
  intro j
  by_cases hj : j < n
  · rw [Memory.readRange_getElem? free _ hj, Memory.content_write, List.getElem?_set,
      Memory.readRange_getElem? free m hj]
    by_cases hkj : k = j
    · simp [hkj, hj]
    · simp [hkj, Ne.symm hkj]
  · simp [Nat.not_lt.1 hj]

/-- Settles O38: the bytes handed over are the contents of the range, in which only the one byte differs. -/
theorem writeGoesOnOverUnwrittenByte : Obligations.WriteGoesOnOverUnwrittenByte := by
  intro addr size k s a v hp ha hrange hk hunwritten
  refine ⟨_, _, s.readBuf addr size, .done .write (some (BitVec.ofNat 32 (accepted a size))),
    exec_write_of_answer hp ha hrange, exec_write_of_answer hp ha hrange, rfl, ?_, State.transmit_trace .., ?_⟩
  · rw [State.readBuf, Memory.readRange_getElem? _ _ hk, Memory.content_of_unwritten hunwritten]
  · rw [State.transmit_trace, State.readBuf, Memory.readRange_write]
    rfl

/-- Settles O39: by the micro-steps of `write`. -/
theorem writeFrame : Obligations.WriteFrame := by
  intro addr size s t h
  have hmicro := exec_microStep h
  obtain ⟨hcmd, hpar, hcand, hoverflow, hprogram, hnext, hended, hmoves, hdrawn, hfault⟩ := hmicro.keeps
  have hbuf : t.buf = s.buf := hmicro.buf_eq (by simp)
  have hrest : t.frameState = s.frameState ∧ t.savedTpb = s.savedTpb ∧ t.raw = s.raw ∧ t.drainLeft = s.drainLeft ∧
      t.tpb = s.tpb := by
    cases hmicro <;> exact ⟨rfl, rfl, rfl, rfl, rfl⟩
  obtain ⟨hframe, hsaved, hraw, hdrain, htpb⟩ := hrest
  refine ⟨hframe, hsaved, hraw, hdrain, hcmd, htpb, hpar, by simp [hcand], by simp [hbuf], hoverflow, hprogram, hnext,
    hended, hmoves, hdrawn, hfault, fun hno => ?_⟩
  cases hmicro with
  | transmit _ a hp ha => simp [hp, ha] at hno
  | _ => exact ⟨rfl, rfl, rfl, rfl⟩

end Sys2Proof.Machine
end

section
/-! PROOF. The selection and the commit of `setAutoBaud` as arithmetic (spec/42_autobaud.md R148 to R151): the nearest
candidate is the first minimum, and the committed ticks are the rounded quotient. -/

namespace Sys2Proof.Machine

variable {raw sel : Baud} {l : List Baud}

/-! ## The nearest candidate (R148, R149) -/

/-- The distance of a candidate as the absolute value of the signed difference. -/
theorem baudDistance_eq_natAbs (c raw : Baud) : baudDistance c raw = ((c.toNat : Int) - raw.toNat).natAbs := by
  unfold baudDistance
  omega

/-- `sel` stands at the index `i` of the list, no candidate is nearer to `raw`, and every earlier one is farther. -/
structure FirstNearest (raw : Baud) (l : List Baud) (i : Nat) (sel : Baud) : Prop where
  at_index : l[i]? = some sel
  minimal : ∀ (j : Nat) (c : Baud), l[j]? = some c → baudDistance sel raw ≤ baudDistance c raw
  first : ∀ (j : Nat) (c : Baud), j < i → l[j]? = some c → baudDistance sel raw < baudDistance c raw

/-- A candidate nearer than the one before it takes its place. -/
theorem FirstNearest.cons_of_lt {c d : Baud} {i : Nat} (h : FirstNearest raw (d :: l) i sel)
    (hlt : baudDistance d raw < baudDistance c raw) : FirstNearest raw (c :: d :: l) (i + 1) sel := by
  have hd := h.minimal 0 d rfl
  refine ⟨h.at_index, fun j b hj => ?_, fun j b hji hj => ?_⟩
  · cases j with
    | zero => cases hj; omega
    | succ j => exact h.minimal j b hj
  · cases j with
    | zero => cases hj; omega
    | succ j => exact h.first j b (by omega) hj

/-- A candidate no nearer than the one before it changes nothing. -/
theorem FirstNearest.insert_of_le {c d : Baud} {i : Nat} (h : FirstNearest raw (c :: l) i sel)
    (hle : baudDistance c raw ≤ baudDistance d raw) :
    FirstNearest raw (c :: d :: l) (if i = 0 then 0 else i + 1) sel := by
  have hc := h.minimal 0 c rfl
  cases i with
  | zero =>
    refine ⟨h.at_index, fun j b hj => ?_, fun j b hji => by simp at hji⟩
    match j with
    | 0 => cases hj; omega
    | 1 => cases hj; omega
    | j + 2 => exact h.minimal (j + 1) b hj
  | succ i =>
    have hfirst := h.first 0 c (by omega) rfl
    refine ⟨h.at_index, fun j b hj => ?_, fun j b hji hj => ?_⟩
    · match j with
      | 0 => cases hj; omega
      | 1 => cases hj; omega
      | j + 2 => exact h.minimal (j + 1) b hj
    · match j with
      | 0 => cases hj; omega
      | 1 => cases hj; omega
      | j + 2 => exact h.first (j + 1) b (by simp at hji; omega) hj

/-- The scan keeps the first nearest of what it has looked at. -/
theorem scanCandidates_firstNearest (raw : Baud) (l : List Baud) : ∀ sel : Baud,
    ∃ i, FirstNearest raw (sel :: l) i (scanCandidates raw sel (baudDistance sel raw) l) := by
  induction l with
  | nil =>
    refine fun sel => ⟨0, rfl, fun j c hj => ?_, fun j c hj => by simp at hj⟩
    cases j with
    | zero => cases hj; exact Nat.le_refl _
    | succ j => simp at hj
  | cons d l ih =>
    intro sel
    unfold scanCandidates
    split
    · rename_i hlt
      obtain ⟨i, h⟩ := ih d
      exact ⟨_, h.cons_of_lt hlt⟩
    · rename_i hle
      obtain ⟨i, h⟩ := ih sel
      exact ⟨_, h.insert_of_le (Nat.not_lt.1 hle)⟩

/-- A list that is not empty has a nearest candidate. -/
theorem exists_nearestCandidate (raw : Baud) (hl : l ≠ []) :
    ∃ i sel, nearestCandidate raw l = some sel ∧ FirstNearest raw l i sel := by
  obtain ⟨c, cs, rfl⟩ := List.exists_cons_of_ne_nil hl
  obtain ⟨i, h⟩ := scanCandidates_firstNearest raw cs c
  exact ⟨i, _, rfl, h⟩

/-- Settles O45: the scan's invariant, with the distance as an absolute value. -/
theorem selectionIsFirstMinimum : Obligations.SelectionIsFirstMinimum := by
  intro raw candidates hl
  obtain ⟨i, sel, hsel, h⟩ := exists_nearestCandidate raw hl
  simp only [← baudDistance_eq_natAbs]
  exact ⟨i, sel, hsel, h.at_index, h.minimal, h.first⟩

/-- Settles O46: 9600 replaces 4800 above the middle of the two, and 19200 replaces 9600 above theirs. -/
theorem rawValuesSelecting9600 : Obligations.RawValuesSelecting9600 := by
  intro raw
  simp only [nearestCandidate, scanCandidates, baudDistance_eq_natAbs, BitVec.reduceToNat]
  split_ifs <;> simp <;> omega

/-! ## The committed ticks (R151) -/

/-- Settles O47: the bounds of a floor division of `TPS + floor(sel / 2)`. -/
theorem commitRoundsHalfUp : Obligations.CommitRoundsHalfUp := by
  refine ⟨fun tps sel hsel => ?_, fun p sel hlegal hsel hmax => ?_⟩
  · have hle : roundedTicks tps sel * sel ≤ tps + sel / 2 := Nat.div_mul_le_self _ _
    have hlt : tps + sel / 2 < roundedTicks tps sel * sel + sel := Nat.lt_div_mul_add hsel
    have hzero : roundedTicks tps sel = 0 ↔ tps + sel / 2 < sel := by
      unfold roundedTicks
      rw [Nat.div_eq_zero_iff]
      omega
    rw [hzero]
    omega
  · obtain ⟨_, htps, _⟩ := hlegal
    have hle : roundedTicks p.tps sel.toNat ≤ p.tps + sel.toNat / 2 := Nat.div_le_self _ _
    have htoNat : (committedTicks p sel).toNat = roundedTicks p.tps sel.toNat := by
      rw [committedTicks, BitVec.toNat_ofNat, Nat.mod_eq_of_lt (by omega)]
    exact ⟨htoNat, by omega⟩

end Sys2Proof.Machine
end

section
/-! PROOF. `setAutoBaud` (spec/42_autobaud.md R141 to R153): its micro-steps with their whole next states, whole
commands, the drain that waits and looks at nothing, and the frame. -/

namespace Sys2Proof.Machine

variable {s t : State} {a : Answer} {base n : Nat} {e : EventWord} {q : List EventWord} {sel : Baud} {rest : List Move}

/-! ## The micro-steps -/

/-- A detection: the raw value is kept and the drain of three starts (R142, R145). -/
theorem State.detectStep_of_raw_ne_zero (hraw : a.raw ≠ 0) :
    s.detectStep a = { s with
      raw := a.raw, drainLeft := 3, phase := .abDrain, lastEdge := a.lastEdge,
      q := s.q.drop (min a.consumed s.q.length), answer := none,
      trace := s.trace ++ [.call (.detectRawBaud a.raw)] } := by
  rcases State.detectStep_cases a s with ⟨hzero, _⟩ | ⟨_, ht⟩
  · exact absurd hzero hraw
  · rw [ht, ← List.drop_eq_drop_min]
    rfl

/-- Settles O41: the issue, the hold, and the two ends of the detection. -/
theorem autobaudIssueAndDetect : Obligations.AutobaudIssueAndDetect := by
  refine fun base n s => ⟨fun hp hf hn hrange => ?_, fun hp ha => ?_, fun a hp ha hraw => ?_, fun a hp ha hraw => ?_⟩
  · exact exec_setAutoBaud_of_ready hp (hf ▸ issueFault_setAutoBaud_eq_none hn hrange)
  · simp [exec, execSetAutoBaud, hp, ha]
  · rw [exec_setAutoBaud_of_answer hp ha, State.detectStep_of_raw_eq_zero hraw]
  · rw [exec_setAutoBaud_of_answer hp ha, State.detectStep_of_raw_ne_zero hraw]

/-- The drain with no event queued is not enabled (R146). -/
theorem exec_setAutoBaud_of_drain_nil (hp : s.phase = .abDrain) (hq : s.q = []) :
    exec (.setAutoBaud base n) s = .next s := by
  simp [exec, execSetAutoBaud, hp, State.drainStep, State.popEdge_nil hq]

/-- A drain pop counts down, and goes on to the selection at 0 (R142). -/
theorem exec_setAutoBaud_of_drain_cons (hp : s.phase = .abDrain) (hq : s.q = e :: q) :
    exec (.setAutoBaud base n) s = .next { s.popped e q with
      drainLeft := s.drainLeft - 1, phase := if s.drainLeft - 1 = 0 then .abSelect else .abDrain } := by
  simp [exec, execSetAutoBaud, hp, State.drainStep, State.popEdge_cons hq, State.goPhase, State.popped]

/-- Settles O42: the drain without an event, its last pop, and its earlier ones. -/
theorem autobaudDrain : Obligations.AutobaudDrain := by
  refine fun base n s hp => ⟨exec_setAutoBaud_of_drain_nil hp, fun e q hq hleft => ?_, fun e q hq hleft => ?_⟩
  · rw [exec_setAutoBaud_of_drain_cons hp hq, hleft]
    rfl
  · have hgo : s.drainLeft - 1 ≠ 0 := by bv_omega
    rw [exec_setAutoBaud_of_drain_cons hp hq, if_neg hgo, ← hp]
    rfl

/-- The selection settles the nearest candidate of the list (R148). -/
theorem exec_setAutoBaud_of_select (hp : s.phase = .abSelect) (hrange : base + n ≤ Config.candWords)
    (hsel : nearestCandidate s.raw (s.readCand base n) = some sel) :
    exec (.setAutoBaud base n) s = .next (s.settle sel) := by
  simp [exec, execSetAutoBaud, hp, candRangeOk, hrange, hsel]

theorem State.settle_of_gt (hsel : 20000 < sel.toNat) : s.settle sel = { s with
    tpb := s.savedTpb, result := 0, phase := .ready,
    trace := s.trace ++ [.setTpb s.savedTpb, .done .setAutoBaud (some 0)] } := by
  have hmax : Config.maxBaud < sel.toNat := hsel
  rw [State.settle, if_pos hmax]
  simp [State.setTicksPerBit, State.completeWith, Config.noDetection]

theorem State.settle_of_zero (hsel : sel = 0) : s.settle sel = { s with
    cause := 7, faultCmd := s.cmd, phase := .halted, trace := s.trace ++ [.fault 7 s.cmd] } := by
  subst hsel
  rfl

theorem State.settle_of_commit (hpos : 1 ≤ sel.toNat) (hle : sel.toNat ≤ 20000) : s.settle sel = { s with
    tpb := BitVec.ofNat 32 ((s.par.tps + sel.toNat / 2) / sel.toNat), result := sel, phase := .ready,
    trace := s.trace ++ [.setTpb (BitVec.ofNat 32 ((s.par.tps + sel.toNat / 2) / sel.toNat)),
      .done .setAutoBaud (some sel)] } := by
  have hmax : ¬ Config.maxBaud < sel.toNat := Nat.not_lt.2 hle
  have hne : sel ≠ 0 := by rintro rfl; simp at hpos
  rw [State.settle, if_neg hmax, if_neg hne]
  simp [State.setTicksPerBit, State.completeWith, committedTicks, roundedTicks]

/-- Settles O43: the nearest candidate, and the three ways it is settled. -/
theorem autobaudSelect : Obligations.AutobaudSelect := by
  intro base candidates s hp hne hrange hcand
  obtain ⟨i, sel, hsel, hnearest⟩ := exists_nearestCandidate s.raw hne
  have hexec : exec (.setAutoBaud base candidates.length) s = .next (s.settle sel) :=
    exec_setAutoBaud_of_select hp hrange (hcand.symm ▸ hsel)
  refine ⟨sel, hsel, List.mem_of_getElem? hnearest.at_index, ?_⟩
  rw [hexec]
  exact ⟨fun h => congrArg _ (State.settle_of_gt h), fun h => congrArg _ (State.settle_of_zero h),
    fun hpos hle => congrArg _ (State.settle_of_commit hpos hle)⟩

/-- The settlement of a candidate does not look at `CAND`. -/
theorem State.settle_with_cand (sel : Baud) (s : State) (m : Memory Baud) :
    { ({ s with cand := m } : State).settle sel with cand := [] } = { s.settle sel with cand := [] } := by
  unfold State.settle
  split_ifs <;> rfl

theorem State.settle_ends (sel : Baud) (s : State) :
    (s.settle sel).cand = s.cand ∧ ((s.settle sel).phase = .ready ∨ (s.settle sel).phase = .halted) := by
  rcases s.settle_cases sel with ⟨_, ht⟩ | ⟨_, ht⟩ | ⟨_, _, ht⟩ <;> rw [ht] <;> simp

/-- Writing to a unit nobody wrote the content it has is not seen by a read of a range. -/
theorem Memory.readRange_write_free {α : Type} (free : Nat → α) {m : Memory α} {b : Nat} (hb : m.read b = none)
    (addr n : Nat) : (m.write b (free b)).readRange free addr n = m.readRange free addr n := by
  refine Memory.readRange_congr _ fun j _ => ?_
  rw [Memory.content_write]
  split
  · rename_i heq
    rw [heq, Memory.content_of_unwritten hb]
  · rfl

/-- Settles O44: the written content is the one the selection reads without it, so the same candidate is settled. -/
theorem autobaudGoesOnOverUnwrittenCandidate : Obligations.AutobaudGoesOnOverUnwrittenCandidate := by
  intro base n k s hp hrange hk hunwritten
  have hread := Memory.readRange_write_free Config.candContent hunwritten base n
  have hne : s.readCand base n ≠ [] := List.ne_nil_of_length_pos (by simp [State.readCand]; omega)
  obtain ⟨_, sel, hsel, _⟩ := exists_nearestCandidate s.raw hne
  exact ⟨_, _, exec_setAutoBaud_of_select hp hrange hsel,
    exec_setAutoBaud_of_select (s := { s with cand := s.cand.write (base + k) (Config.candContent (base + k)) }) hp
      hrange ((congrArg (nearestCandidate s.raw) hread).trans hsel),
    (s.settle_with_cand sel _).symm, s.settle_ends sel⟩

/-! ## Runs of a whole command (R142, R153) -/

/-- A run is what its first step answers, run on, whatever the outcome. -/
theorem core_run_succ (h : step s = .next t) (k : Nat) : core.run (k + 1) s = core.run k t := by
  have hcore : core.step s = .next t := h
  simp only [Host.Core.run, hcore]

theorem core_run_one (s : State) : core.run 1 s = step s := by
  have hcore : core.step s = step s := rfl
  simp only [Host.Core.run, hcore]
  cases step s <;> rfl

/-- The step in which the detection succeeds (R142, R145). -/
theorem step_of_detection_success (hm : s.moves = .transport a :: rest) (hp : s.phase = .abDetect)
    (hd : decode s.cmd = .ok (.setAutoBaud base n)) (hraw : a.raw ≠ 0) :
    step s = .next { s with
      moves := rest, raw := a.raw, drainLeft := 3, phase := .abDrain, lastEdge := a.lastEdge,
      q := s.q.drop (min a.consumed s.q.length), answer := none,
      trace := s.trace ++ [.call (.detectRawBaud a.raw)] } := by
  rw [step_of_detection hm hp hd]
  refine Eq.trans (exec_setAutoBaud_of_answer hp rfl) ?_
  rw [State.detectStep_of_raw_ne_zero hraw]

/-- The state after a drain pop of the event `e`, with `left` events left to drain, the queue `q` and the moves
`rest`. -/
def State.drained (e : EventWord) (left : BitVec 2) (q : List EventWord) (rest : List Move) (s : State) : State :=
  { s.popped e q with
    moves := rest, drainLeft := left, phase := if left = 0 then .abSelect else .abDrain }

theorem step_of_drain (s : State) (left : BitVec 2) (hm : s.moves = .block :: rest) (hp : s.phase = .abDrain)
    (hd : decode s.cmd = .ok (.setAutoBaud base n)) (hq : s.q = e :: q) (hleft : s.drainLeft = left + 1) :
    step s = .next (s.drained e left q rest) := by
  have hleft' : s.drainLeft - 1 = left := by bv_omega
  rw [step_of_block hm (State.inProgress_of_phase hp) hd]
  refine Eq.trans (exec_setAutoBaud_of_drain_cons hp hq) ?_
  rw [State.drained, ← hleft']
  rfl

/-- The state after the drain of three events. -/
def State.drainedThree (e1 e2 e3 : EventWord) (q : List EventWord) (rest : List Move) (s : State) : State :=
  ((s.drained e1 2 (e2 :: e3 :: q) (.block :: .block :: rest)).drained e2 1 (e3 :: q) (.block :: rest)).drained e3 0 q
    rest

/-- Three turns of the block drain three events (R146). -/
theorem core_run_drain (k : Nat) {e1 e2 e3 : EventWord} (hm : s.moves = .block :: .block :: .block :: rest)
    (hp : s.phase = .abDrain) (hleft : s.drainLeft = 3) (hd : decode s.cmd = .ok (.setAutoBaud base n))
    (hq : s.q = e1 :: e2 :: e3 :: q) : core.run (k + 3) s = core.run k (s.drainedThree e1 e2 e3 q rest) := by
  have h1 := step_of_drain s 2 hm hp hd hq hleft
  have h2 := step_of_drain (s.drained e1 2 (e2 :: e3 :: q) (.block :: .block :: rest)) 1 rfl rfl hd rfl rfl
  have h3 := step_of_drain
    ((s.drained e1 2 (e2 :: e3 :: q) (.block :: .block :: rest)).drained e2 1 (e3 :: q) (.block :: rest)) 0 rfl rfl hd
    rfl rfl
  exact (core_run_succ h1 _).trans ((core_run_succ h2 _).trans (core_run_succ h3 _))

/-- The state at the selection of a `setAutoBaud` that was issued in `s`, with `TPB` saved and overridden, the raw value
kept and three events drained (R142). -/
def State.selecting (w : CmdWord) (later : List CmdWord) (a : Answer) (e1 e2 e3 : EventWord) (q : List EventWord)
    (rest : List Move) (s : State) : State :=
  { s with
    moves := rest, program := later, cmd := w, savedTpb := s.tpb, tpb := s.par.tpbRef, raw := a.raw, drainLeft := 0,
    phase := .abSelect, lastEdge := e3, q := q, answer := none,
    trace := s.trace ++ [.issue w, .setTpb s.par.tpbRef, .call (.detectRawBaud a.raw), .pop e1, .pop e2, .pop e3] }

/-- The issue of a `setAutoBaud` that passes its checks, its detection, and the drain of three events (R142). -/
theorem core_run_autobaud (k : Nat) {w : CmdWord} {later : List CmdWord} {e1 e2 e3 : EventWord}
    (hm : s.moves = .host .issue :: .transport a :: .block :: .block :: .block :: rest) (hw : s.program = w :: later)
    (hp : s.phase = .ready) (hd : decode w = .ok (.setAutoBaud base n))
    (hf : issueFault (.setAutoBaud base n) s.frameState = none) (hraw : a.raw ≠ 0)
    (hq : s.q.drop a.consumed = e1 :: e2 :: e3 :: q) :
    core.run (k + 5) s = core.run k (s.selecting w later a e1 e2 e3 q rest) := by
  rw [List.drop_eq_drop_min] at hq
  have hissue := step_of_setAutoBaud_issue hm hw hp hd hf
  have hdetect := step_of_detection_success (s := { s with
      moves := .transport a :: .block :: .block :: .block :: rest, program := later, cmd := w, savedTpb := s.tpb,
      tpb := s.par.tpbRef, phase := .abDetect, trace := s.trace ++ [.issue w, .setTpb s.par.tpbRef] }) rfl rfl hd hraw
  refine (core_run_succ hissue (k + 4)).trans ((core_run_succ hdetect (k + 3)).trans ?_)
  refine (core_run_drain (rest := rest) (base := base) (n := n) k ?_ ?_ ?_ ?_ hq).trans ?_
  · rfl
  · rfl
  · rfl
  · exact hd
  · simp [State.drainedThree, State.drained, State.popped, State.selecting]

theorem step_of_select (hm : s.moves = .block :: rest) (hp : s.phase = .abSelect)
    (hd : decode s.cmd = .ok (.setAutoBaud base n)) (hrange : base + n ≤ Config.candWords)
    (hsel : nearestCandidate s.raw (s.readCand base n) = some sel) :
    step s = .next (({ s with moves := rest } : State).settle sel) :=
  (step_of_block hm (State.inProgress_of_phase hp) hd).trans (exec_setAutoBaud_of_select hp hrange hsel)

/-- What no settlement of a candidate writes. -/
theorem State.settle_keeps (sel : Baud) (s : State) :
    (s.settle sel).frameState = s.frameState ∧ (s.settle sel).q = s.q ∧ (s.settle sel).lastEdge = s.lastEdge ∧
    (s.settle sel).drainLeft = s.drainLeft ∧ (s.settle sel).raw = s.raw ∧ (s.settle sel).savedTpb = s.savedTpb ∧
    (s.settle sel).cmd = s.cmd ∧ (s.settle sel).program = s.program ∧ (s.settle sel).moves = s.moves ∧
    (s.settle sel).cand = s.cand ∧ (s.settle sel).buf = s.buf := by
  rcases s.settle_cases sel with ⟨_, ht⟩ | ⟨_, ht⟩ | ⟨_, _, ht⟩ <;> rw [ht] <;> simp

/-- Settles O49: five steps to the selection, and the settlement of the nearest candidate. -/
theorem autobaudWholeCommand : Obligations.AutobaudWholeCommand := by
  intro s w base candidates a e1 e2 e3 events later rest sel hp hframe hd hne hrange hcand hraw hq hw hm hsel
  have hf : issueFault (.setAutoBaud base candidates.length) s.frameState = none :=
    hframe ▸ issueFault_setAutoBaud_eq_none (by simpa using hne) hrange
  have hrun := core_run_autobaud 1 hm hw hp hd hf hraw hq
  have hselect : step (s.selecting w later a e1 e2 e3 events (.block :: rest)) =
      .next ((s.selecting w later a e1 e2 e3 events rest).settle sel) :=
    step_of_select rfl rfl hd hrange (hcand.symm ▸ hsel)
  obtain ⟨hframe', hq', hlast', hdrain', hraw', hsaved', hcmd', hprogram', hmoves', hcand', hbuf'⟩ :=
    (s.selecting w later a e1 e2 e3 events rest).settle_keeps sel
  refine ⟨_, hrun.trans (core_run_one_of_step hselect), hframe'.trans hframe, hq', hlast', hdrain', hraw', hsaved',
    hcmd', hprogram', hmoves', hcand', hbuf', fun hgt => ?_, fun hzero => ?_, fun hpos hle => ?_⟩
  · rw [State.settle_of_gt hgt]
    exact ⟨rfl, rfl, rfl⟩
  · rw [State.settle_of_zero hzero]
    exact ⟨rfl, rfl, rfl, rfl, rfl⟩
  · rw [State.settle_of_commit hpos hle]
    exact ⟨rfl, rfl, rfl⟩

/-! ## The drain that waits (R146, R198) -/

/-- Settles O50: each turn of the block takes its move and nothing else. -/
theorem drainWaitsForEver : Obligations.DrainWaitsForEver := by
  intro k
  induction k with
  | zero =>
    rintro s base n rest _ _ _ rfl
    rfl
  | succ k ih =>
    intro s base n rest hp hq hd hm
    have hstep : step s = .next { s with moves := List.replicate k .block ++ rest } :=
      (step_of_block hm (State.inProgress_of_phase hp) hd).trans (exec_setAutoBaud_of_drain_nil hp hq)
    exact core_run_succ_of_step hstep (ih _ base n rest hp hq hd rfl)

/-! ## The drain that looks at nothing (R146) -/

/-- The settlement of a candidate does not look at `LAST_EDGE` or the trace. -/
theorem State.settle_with_lastEdge (sel : Baud) (s : State) (e : EventWord) (tr : List Event) :
    { ({ s with lastEdge := e, trace := tr } : State).settle sel with lastEdge := 0, trace := [] } =
      { s.settle sel with lastEdge := 0, trace := [] } := by
  unfold State.settle
  split_ifs <;> rfl

/-- A selection over no candidates, which no run reaches, holds (log 13). -/
theorem exec_setAutoBaud_of_empty (hp : s.phase = .abSelect) (hrange : base + 0 ≤ Config.candWords) :
    exec (.setAutoBaud base 0) s = .next s := by
  have hrange' : base ≤ Config.candWords := hrange
  simp [exec, execSetAutoBaud, hp, candRangeOk, hrange', State.readCand, Memory.readRange, nearestCandidate]

/-- The selection does not look at `LAST_EDGE` or the trace. -/
theorem exec_setAutoBaud_with_lastEdge (hp : s.phase = .abSelect) (e : EventWord) (tr : List Event) :
    (∃ t u, exec (.setAutoBaud base n) s = .next t ∧
      exec (.setAutoBaud base n) { s with lastEdge := e, trace := tr } = .next u ∧
      { t with lastEdge := 0, trace := [] } = { u with lastEdge := 0, trace := [] }) ∨
    (∃ f, exec (.setAutoBaud base n) s = .fault f ∧
      exec (.setAutoBaud base n) { s with lastEdge := e, trace := tr } = .fault f) := by
  cases hrange : candRangeOk base n with
  | false => exact .inr ⟨.outsideCand, by simp [exec, execSetAutoBaud, hp, hrange]⟩
  | true =>
    refine .inl ?_
    have hrange' : base + n ≤ Config.candWords := by simpa [candRangeOk] using hrange
    cases n with
    | zero =>
      exact ⟨_, _, exec_setAutoBaud_of_empty hp hrange', exec_setAutoBaud_of_empty hp hrange', rfl⟩
    | succ n =>
      exact ⟨_, _, exec_setAutoBaud_of_select hp hrange' rfl, exec_setAutoBaud_of_select hp hrange' rfl,
        (s.settle_with_lastEdge _ e tr).symm⟩

/-- Four turns of the block drain three events and select. -/
theorem core_run_drain_select {e1 e2 e3 : EventWord} (hm : s.moves = .block :: .block :: .block :: .block :: rest)
    (hp : s.phase = .abDrain) (hleft : s.drainLeft = 3) (hd : decode s.cmd = .ok (.setAutoBaud base n))
    (hq : s.q = e1 :: e2 :: e3 :: q) :
    core.run 4 s = exec (.setAutoBaud base n) (s.drainedThree e1 e2 e3 q rest) :=
  (core_run_drain 1 hm hp hleft hd hq).trans
    ((core_run_one _).trans (step_of_block rfl (State.inProgress_of_phase (p := .abSelect) rfl) hd))

/-- Settles O51: both runs drain three events, and select over states that differ only in `LAST_EDGE` and the trace. -/
theorem drainedEventsHaveNoInfluence : Obligations.DrainedEventsHaveNoInfluence := by
  intro s base n e1 e2 e3 f1 f2 f3 later rest hp hleft hd hm
  rw [core_run_drain_select (s := { s with q := e1 :: e2 :: e3 :: later }) hm hp hleft hd rfl,
    core_run_drain_select (s := { s with q := f1 :: f2 :: f3 :: later }) hm hp hleft hd rfl]
  exact exec_setAutoBaud_with_lastEdge
    (s := ({ s with q := e1 :: e2 :: e3 :: later } : State).drainedThree e1 e2 e3 later rest) rfl f3
    (s.trace ++ [.pop f1] ++ [.pop f2] ++ [.pop f3])

/-! ## The frame (R141, R142) -/

/-- Settles O52: by the micro-steps of `setAutoBaud`. -/
theorem autobaudFrame : Obligations.AutobaudFrame := by
  intro base n s t h
  have hmicro := exec_microStep h
  obtain ⟨hcmd, hpar, hcand, hoverflow, hprogram, hnext, hended, hmoves, hdrawn, hfault⟩ := hmicro.keeps
  have hbuf : t.buf = s.buf := hmicro.buf_eq (by simp)
  have hframe : t.frameState = s.frameState := by cases hmicro <;> rfl
  refine ⟨hframe, hcmd, hpar, by simp [hcand], by simp [hbuf], hoverflow, hprogram, hnext, hended, hmoves, hdrawn,
    hfault, fun hready => ?_, fun hdetect => ?_, fun hdetect hdrain => ?_, fun hdetect hselect => ?_, fun hno => ?_⟩
  · cases hmicro with
    | startAutobaud hp => exact absurd hp hready
    | _ => rfl
  · cases hmicro with
    | detectionFails _ hp | detects _ hp => exact absurd hp hdetect
    | _ => exact ⟨rfl, rfl⟩
  · cases hmicro with
    | detectionFails _ hp | detects _ hp => exact absurd hp hdetect
    | drains _ _ hp => exact absurd hp hdrain
    | _ => exact ⟨rfl, rfl, rfl⟩
  · cases hmicro with
    | detectionFails _ hp => exact absurd hp hdetect
    | aboveCeiling hp | commits _ hp => exact absurd hp hselect
    | _ => rfl
  · cases hmicro with
    | startAutobaud hp => simp [hp, State.startAutobaud] at hno
    | detectionFails _ hp | aboveCeiling hp | commits _ hp => simp [hp] at hno
    | _ => rfl

end Sys2Proof.Machine
end
